-- ==== Sys2Proof/Word.lean ====
section
/-! DEFINITION. The words RBFC moves (00_scope.md R8, R12) and the names the spec gives to register words, their
fields and the field selects (20_memory.md R41, 30_encoding.md R70). -/

namespace Sys2Proof

/-- A 16-bit register word (R8 `WORD_BITS`). -/
abbrev Word := BitVec 16

/-- A wire byte (R8 `BYTE_BITS`). -/
abbrev Byte := BitVec 8

/-- A binary32 bit pattern: sign in bit 31, exponent in bits 30:23, fraction in bits 22:0 (R13). -/
abbrev F32 := BitVec 32

/-- The six registers of the chip whose words RBFC codes, in the spec's order, which carries no address (R41). -/
inductive RegName where
  | configuration
  | shuntVoltage
  | busVoltage
  | power
  | current
  | calibration
deriving DecidableEq, Repr

/-- The named bit fields of the register words, in the order of their select codes 0x0 to 0xD (R70). -/
inductive Field where
  | cfgMode
  | cfgVshct
  | cfgVbusct
  | cfgAvg
  | cfgAdcrange
  | cfgRsvd
  | cfgRst
  | busOvf
  | busCnvr
  | busRsvd
  | busVbus
  | calValue
  | calRsvd
  | shuntSign
deriving DecidableEq, Repr

/-- What the four `fsel` bits of GETF and SETF select: a named field, or one of the two reserved codes, which are
illegal for these two operations (R63, R70). -/
inductive FieldSel where
  | named (f : Field)
  | reserved0xE
  | reserved0xF
deriving DecidableEq, Repr

end Sys2Proof
end

