-- ==== Sys2Proof/Syntax.lean ====
section
/-! DEFINITION. The input port record of a request (10_state.md R21, R22) and the operations a request can name, one
constructor per row of spec/opcode_table.json, each with the ports that operation reads (30_encoding.md R61, R62). -/

namespace Sys2Proof

/-- One request: every input port, at its width (R21, R22). -/
structure Request where
  /-- opcode -/
  op : BitVec 4
  /-- field select -/
  fsel : BitVec 4
  /-- primary operand word -/
  a : Word
  /-- new field value of SETF -/
  b : Word
  /-- first wire byte of a read: the high byte -/
  d0 : Byte
  /-- second wire byte of a read: the low byte -/
  d1 : Byte
  /-- ENC.CONFIG `mode` -/
  cMode : BitVec 3
  /-- ENC.CONFIG `shunt_time` -/
  cVshct : BitVec 3
  /-- ENC.CONFIG `bus_time` -/
  cVbusct : BitVec 3
  /-- ENC.CONFIG `avg` -/
  cAvg : BitVec 3
  /-- ENC.CONFIG `range` -/
  cRange : BitVec 1
  /-- ENC.CONFIG `reset` -/
  cRst : BitVec 1
deriving DecidableEq, Repr

/-- The operations, one per row of the opcode table. An operation carries exactly the ports it reads (R61): a response
depends on no other port (10_state.md R25). The eight unassigned opcodes are rows of the table and answer the illegal
response (R63, 60_exceptions.md R201). -/
inductive Instr where
  /-- DEC.VBUS, op 0x1 (R100) -/
  | decVbus (a : Word)
  /-- DEC.ISHUNT, op 0x2 (R105) -/
  | decIshunt (a : Word)
  /-- ENC.CONFIG, op 0x3 (R120) -/
  | encConfig (mode vshct vbusct avg : BitVec 3) (range rst : BitVec 1)
  /-- ENC.CAL, op 0x4 (R125) -/
  | encCal (a : Word)
  /-- GETF, op 0x5 (R140) -/
  | getf (sel : FieldSel) (a : Word)
  /-- SETF, op 0x6 (R141) -/
  | setf (sel : FieldSel) (a b : Word)
  /-- PACK.BE, op 0x7 (R160) -/
  | packBe (d0 d1 : Byte)
  /-- UNPACK.BE, op 0x8 (R162) -/
  | unpackBe (a : Word)
  /-- op 0x0, unassigned (R63, R201) -/
  | illegalOp0x0
  /-- op 0x9, unassigned -/
  | illegalOp0x9
  /-- op 0xA, unassigned -/
  | illegalOp0xA
  /-- op 0xB, unassigned -/
  | illegalOp0xB
  /-- op 0xC, unassigned -/
  | illegalOp0xC
  /-- op 0xD, unassigned -/
  | illegalOp0xD
  /-- op 0xE, unassigned -/
  | illegalOp0xE
  /-- op 0xF, unassigned -/
  | illegalOp0xF
deriving DecidableEq, Repr

end Sys2Proof
end

