-- ==== Sys2Proof/Decode.lean ====
section
/-! DEFINITION. From the 72-bit request image to the port record (30_encoding.md R60), from the ports to the operation
(R62, R63, R70), and back. Every image is an operation; only a byte string that is not one image long is rejected
(R60: "It has a single length"). -/

namespace Sys2Proof

/-! ### The request image (R60) -/

/-- A request image. -/
abbrev Image := BitVec 72

/-- The ports an image presents. Image bits 14:13 are ignored (R60, R63). -/
def Request.ofImage (img : Image) : Request where
  op := img.extractLsb' 68 4
  fsel := img.extractLsb' 64 4
  a := img.extractLsb' 48 16
  b := img.extractLsb' 32 16
  d0 := img.extractLsb' 24 8
  d1 := img.extractLsb' 16 8
  cRst := img.extractLsb' 15 1
  cRange := img.extractLsb' 12 1
  cAvg := img.extractLsb' 9 3
  cVbusct := img.extractLsb' 6 3
  cVshct := img.extractLsb' 3 3
  cMode := img.extractLsb' 0 3

/-- The image of a port record. Image bits 14:13 are written 0 (R60). -/
def Request.toImage (r : Request) : Image :=
  r.op ++ r.fsel ++ r.a ++ r.b ++ r.d0 ++ r.d1 ++ r.cRst ++ 0#2 ++ r.cRange ++ r.cAvg ++ r.cVbusct ++ r.cVshct
    ++ r.cMode

/-! ### Field selects (R70) -/

/-- The four select bits read as a field select. A four-bit value is at most 15, so the last case is 0xF alone. -/
def FieldSel.ofCode (c : BitVec 4) : FieldSel :=
  match c.toNat with
  | 0x0 => .named .cfgMode
  | 0x1 => .named .cfgVshct
  | 0x2 => .named .cfgVbusct
  | 0x3 => .named .cfgAvg
  | 0x4 => .named .cfgAdcrange
  | 0x5 => .named .cfgRsvd
  | 0x6 => .named .cfgRst
  | 0x7 => .named .busOvf
  | 0x8 => .named .busCnvr
  | 0x9 => .named .busRsvd
  | 0xA => .named .busVbus
  | 0xB => .named .calValue
  | 0xC => .named .calRsvd
  | 0xD => .named .shuntSign
  | 0xE => .reserved0xE
  | _ => .reserved0xF

/-- The select code of a named field (R70). -/
def Field.code : Field → BitVec 4
  | .cfgMode => 0x0
  | .cfgVshct => 0x1
  | .cfgVbusct => 0x2
  | .cfgAvg => 0x3
  | .cfgAdcrange => 0x4
  | .cfgRsvd => 0x5
  | .cfgRst => 0x6
  | .busOvf => 0x7
  | .busCnvr => 0x8
  | .busRsvd => 0x9
  | .busVbus => 0xA
  | .calValue => 0xB
  | .calRsvd => 0xC
  | .shuntSign => 0xD

/-- The select code of a field select. -/
def FieldSel.code : FieldSel → BitVec 4
  | .named f => f.code
  | .reserved0xE => 0xE
  | .reserved0xF => 0xF

/-! ### Operations (R62) -/

/-- The operation a request names, with the ports that operation reads (R61, R62). A four-bit opcode is at most 15, so
the last case is 0xF alone. -/
def decodeRequest (r : Request) : Instr :=
  match r.op.toNat with
  | 0x0 => .illegalOp0x0
  | 0x1 => .decVbus r.a
  | 0x2 => .decIshunt r.a
  | 0x3 => .encConfig r.cMode r.cVshct r.cVbusct r.cAvg r.cRange r.cRst
  | 0x4 => .encCal r.a
  | 0x5 => .getf (.ofCode r.fsel) r.a
  | 0x6 => .setf (.ofCode r.fsel) r.a r.b
  | 0x7 => .packBe r.d0 r.d1
  | 0x8 => .unpackBe r.a
  | 0x9 => .illegalOp0x9
  | 0xA => .illegalOp0xA
  | 0xB => .illegalOp0xB
  | 0xC => .illegalOp0xC
  | 0xD => .illegalOp0xD
  | 0xE => .illegalOp0xE
  | _ => .illegalOp0xF

/-- The operation an image stands for: total. -/
def decodeImage (img : Image) : Instr := decodeRequest (.ofImage img)

/-- The opcode of an operation (R62). -/
def Instr.opcode : Instr → BitVec 4
  | .decVbus _ => 0x1
  | .decIshunt _ => 0x2
  | .encConfig _ _ _ _ _ _ => 0x3
  | .encCal _ => 0x4
  | .getf _ _ => 0x5
  | .setf _ _ _ => 0x6
  | .packBe _ _ => 0x7
  | .unpackBe _ => 0x8
  | .illegalOp0x0 => 0x0
  | .illegalOp0x9 => 0x9
  | .illegalOp0xA => 0xA
  | .illegalOp0xB => 0xB
  | .illegalOp0xC => 0xC
  | .illegalOp0xD => 0xD
  | .illegalOp0xE => 0xE
  | .illegalOp0xF => 0xF

/-- The request with every port 0 but the opcode: "A port not written is 0 in the request image" (R79). -/
def Request.blank (op : BitVec 4) : Request :=
  { op, fsel := 0, a := 0, b := 0, d0 := 0, d1 := 0, cMode := 0, cVshct := 0, cVbusct := 0, cAvg := 0, cRange := 0,
    cRst := 0 }

/-- The request of an operation: the ports it reads carry its operands, every other port is 0 (R61, R79). -/
def encodeRequest (i : Instr) : Request :=
  match i with
  | .decVbus a => { Request.blank i.opcode with a }
  | .decIshunt a => { Request.blank i.opcode with a }
  | .encConfig mode vshct vbusct avg range rst =>
    { Request.blank i.opcode with
      cMode := mode, cVshct := vshct, cVbusct := vbusct, cAvg := avg, cRange := range, cRst := rst }
  | .encCal a => { Request.blank i.opcode with a }
  | .getf sel a => { Request.blank i.opcode with fsel := sel.code, a }
  | .setf sel a b => { Request.blank i.opcode with fsel := sel.code, a, b }
  | .packBe d0 d1 => { Request.blank i.opcode with d0, d1 }
  | .unpackBe a => { Request.blank i.opcode with a }
  | .illegalOp0x0 => Request.blank i.opcode
  | .illegalOp0x9 => Request.blank i.opcode
  | .illegalOp0xA => Request.blank i.opcode
  | .illegalOp0xB => Request.blank i.opcode
  | .illegalOp0xC => Request.blank i.opcode
  | .illegalOp0xD => Request.blank i.opcode
  | .illegalOp0xE => Request.blank i.opcode
  | .illegalOp0xF => Request.blank i.opcode

/-- The image of an operation. -/
def encode (i : Instr) : Image := (encodeRequest i).toImage

/-! ### Images as bytes (log entry 5)

The spec writes an image in hex, most significant digit first (R60). The byte form below keeps that written order. -/

/-- The nine bytes of an image, in the order the image is written. -/
def bytesOfImage (img : Image) : List Byte :=
  [img.extractLsb' 64 8, img.extractLsb' 56 8, img.extractLsb' 48 8, img.extractLsb' 40 8, img.extractLsb' 32 8,
    img.extractLsb' 24 8, img.extractLsb' 16 8, img.extractLsb' 8 8, img.extractLsb' 0 8]

/-- Why a byte string is no request. -/
inductive DecodeError where
  /-- A request image has a single length, nine bytes (R60); this string has another. -/
  | wrongLength (bytes : Nat)
deriving DecidableEq, Repr

/-- The image nine bytes write. -/
def imageOfBytes : List Byte → Except DecodeError Image
  | [x8, x7, x6, x5, x4, x3, x2, x1, x0] => .ok (x8 ++ x7 ++ x6 ++ x5 ++ x4 ++ x3 ++ x2 ++ x1 ++ x0)
  | bs => .error (.wrongLength bs.length)

/-- Decode a byte string: total, and rejecting by name. -/
def decode (bs : List Byte) : Except DecodeError Instr :=
  match imageOfBytes bs with
  | .ok img => .ok (decodeImage img)
  | .error e => .error e

/-- The image whose low `nbits` bits are `w` and whose other bits are 0, in the numbering of spec/opcode_table.json,
which is that of the image (R60, R11). -/
def imageOfTableWord (nbits w : Nat) : Image := BitVec.ofNat 72 (w % 2 ^ nbits)

/-- What the decoder reads from a word numbered as the opcode table numbers it. No request is longer than 72 bits
(R60), so a longer one is refused. -/
def decodeTableWord (nbits w : Nat) : Option Instr :=
  if nbits ≤ 72 then
    match decode (bytesOfImage (imageOfTableWord nbits w)) with
    | .ok i => some i
    | .error _ => none
  else none

/-! ### The opcode table, row by row (R62; spec/opcode_table.json) -/

/-- One row: its mnemonic, and the bits of the image it fixes. -/
structure OpcodeRow where
  mnemonic : String
  pattern : Image
  mask : Image
deriving DecidableEq, Repr

/-- The image `img` belongs to the row. -/
def OpcodeRow.covers (row : OpcodeRow) (img : Image) : Bool := (img &&& row.mask) == row.pattern

/-- The rows of spec/opcode_table.json, in its order, with its `match` and `mask`. -/
def opcodeTable : List OpcodeRow :=
  [⟨"DEC.VBUS", 0x100000000000000000#72, 0xF00000000000000000#72⟩,
    ⟨"DEC.ISHUNT", 0x200000000000000000#72, 0xF00000000000000000#72⟩,
    ⟨"ENC.CONFIG", 0x300000000000000000#72, 0xF00000000000000000#72⟩,
    ⟨"ENC.CAL", 0x400000000000000000#72, 0xF00000000000000000#72⟩,
    ⟨"GETF", 0x500000000000000000#72, 0xF00000000000000000#72⟩,
    ⟨"SETF", 0x600000000000000000#72, 0xF00000000000000000#72⟩,
    ⟨"PACK.BE", 0x700000000000000000#72, 0xF00000000000000000#72⟩,
    ⟨"UNPACK.BE", 0x800000000000000000#72, 0xF00000000000000000#72⟩,
    ⟨"ILLEGAL_OP_0x0", 0x000000000000000000#72, 0xF00000000000000000#72⟩,
    ⟨"ILLEGAL_OP_0x9", 0x900000000000000000#72, 0xF00000000000000000#72⟩,
    ⟨"ILLEGAL_OP_0xA", 0xA00000000000000000#72, 0xF00000000000000000#72⟩,
    ⟨"ILLEGAL_OP_0xB", 0xB00000000000000000#72, 0xF00000000000000000#72⟩,
    ⟨"ILLEGAL_OP_0xC", 0xC00000000000000000#72, 0xF00000000000000000#72⟩,
    ⟨"ILLEGAL_OP_0xD", 0xD00000000000000000#72, 0xF00000000000000000#72⟩,
    ⟨"ILLEGAL_OP_0xE", 0xE00000000000000000#72, 0xF00000000000000000#72⟩,
    ⟨"ILLEGAL_OP_0xF", 0xF00000000000000000#72, 0xF00000000000000000#72⟩]

/-- The table's mnemonic of an operation. -/
def Instr.mnemonic : Instr → String
  | .decVbus _ => "DEC.VBUS"
  | .decIshunt _ => "DEC.ISHUNT"
  | .encConfig _ _ _ _ _ _ => "ENC.CONFIG"
  | .encCal _ => "ENC.CAL"
  | .getf _ _ => "GETF"
  | .setf _ _ _ => "SETF"
  | .packBe _ _ => "PACK.BE"
  | .unpackBe _ => "UNPACK.BE"
  | .illegalOp0x0 => "ILLEGAL_OP_0x0"
  | .illegalOp0x9 => "ILLEGAL_OP_0x9"
  | .illegalOp0xA => "ILLEGAL_OP_0xA"
  | .illegalOp0xB => "ILLEGAL_OP_0xB"
  | .illegalOp0xC => "ILLEGAL_OP_0xC"
  | .illegalOp0xD => "ILLEGAL_OP_0xD"
  | .illegalOp0xE => "ILLEGAL_OP_0xE"
  | .illegalOp0xF => "ILLEGAL_OP_0xF"

/-- The image bits an operation reads, its fixed bits among them: the 0, 1 and letter positions of its row's `encoding`
in spec/opcode_table.json (R61). -/
def Instr.readMask : Instr → Image
  | .decVbus _ => 0xF0FFFF000000000000#72
  | .decIshunt _ => 0xF0FFFF000000000000#72
  | .encConfig _ _ _ _ _ _ => 0xF00000000000009FFF#72
  | .encCal _ => 0xF0FFFF000000000000#72
  | .getf _ _ => 0xFFFFFF000000000000#72
  | .setf _ _ _ => 0xFFFFFFFFFF00000000#72
  | .packBe _ _ => 0xF000000000FFFF0000#72
  | .unpackBe _ => 0xF0FFFF000000000000#72
  | .illegalOp0x0 => 0xF00000000000000000#72
  | .illegalOp0x9 => 0xF00000000000000000#72
  | .illegalOp0xA => 0xF00000000000000000#72
  | .illegalOp0xB => 0xF00000000000000000#72
  | .illegalOp0xC => 0xF00000000000000000#72
  | .illegalOp0xD => 0xF00000000000000000#72
  | .illegalOp0xE => 0xF00000000000000000#72
  | .illegalOp0xF => 0xF00000000000000000#72

end Sys2Proof
end

