-- ==== Sys2Proof/Machine/Operands.lean ====
section
/-! DEFINITION. Operand forms: the field map and the two accessors (30_encoding.md R70, R78; 42_field.md R140, R141), the
packing of the configuration ports (41_encode.md R120) and the wire byte order (20_memory.md R43). -/

namespace Sys2Proof

/-- The low bit of a field, `LSB(f)` (R70). The configuration positions are the spec's reading of a listing order
(92_eei_decisions.md D7), the order of the three low BusVoltageWord bits too (D8); log entry 10. -/
def Field.lsb : Field → Nat
  | .cfgMode => 0
  | .cfgVshct => 3
  | .cfgVbusct => 6
  | .cfgAvg => 9
  | .cfgAdcrange => 12
  | .cfgRsvd => 13
  | .cfgRst => 15
  | .busOvf => 0
  | .busCnvr => 1
  | .busRsvd => 2
  | .busVbus => 3
  | .calValue => 0
  | .calRsvd => 15
  | .shuntSign => 15

/-- The width of a field, `W(f)` (R70). -/
def Field.width : Field → Nat
  | .cfgMode => 3
  | .cfgVshct => 3
  | .cfgVbusct => 3
  | .cfgAvg => 3
  | .cfgAdcrange => 1
  | .cfgRsvd => 2
  | .cfgRst => 1
  | .busOvf => 1
  | .busCnvr => 1
  | .busRsvd => 1
  | .busVbus => 13
  | .calValue => 15
  | .calRsvd => 1
  | .shuntSign => 1

/-- The register word a field belongs to (R70). Documentation for the host: no operation reads it (R143). -/
def Field.register : Field → RegName
  | .cfgMode => .configuration
  | .cfgVshct => .configuration
  | .cfgVbusct => .configuration
  | .cfgAvg => .configuration
  | .cfgAdcrange => .configuration
  | .cfgRsvd => .configuration
  | .cfgRst => .configuration
  | .busOvf => .busVoltage
  | .busCnvr => .busVoltage
  | .busRsvd => .busVoltage
  | .busVbus => .busVoltage
  | .calValue => .calibration
  | .calRsvd => .calibration
  | .shuntSign => .shuntVoltage

/-- Every field, in the order of the select codes (R70). -/
def Field.all : List Field :=
  [.cfgMode, .cfgVshct, .cfgVbusct, .cfgAvg, .cfgAdcrange, .cfgRsvd, .cfgRst, .busOvf, .busCnvr, .busRsvd, .busVbus,
    .calValue, .calRsvd, .shuntSign]

/-- The fields of one register word (R70, R71). -/
def RegName.fields (r : RegName) : List Field := Field.all.filter (fun f => f.register == r)

/-- `MASK(w)`, the value 2^w − 1, as a word (R12). -/
def maskOf (w : Nat) : Word := BitVec.ofNat 16 (2 ^ w - 1)

/-- `FMASK(f) = MASK(W(f)) << LSB(f)` (R70). -/
def Field.fmask (f : Field) : Word := maskOf f.width <<< f.lsb

/-- The field's value in the word `a`: `(a >> LSB(f)) & MASK(W(f))` (R78, R140). -/
def getField (f : Field) (a : Word) : Word := (a >>> f.lsb) &&& maskOf f.width

/-- The word `a` with the field replaced by the low bits of `b`: `(a & ~FMASK(f)) | ((b << LSB(f)) & FMASK(f))`
(R78, R141). -/
def setField (f : Field) (a b : Word) : Word := (a &&& ~~~f.fmask) ||| ((b <<< f.lsb) &&& f.fmask)

/-- The ConfigurationWord of six field values, bits 14:13 forced 0 (R120). -/
def packConfig (mode vshct vbusct avg : BitVec 3) (range rst : BitVec 1) : Word :=
  rst ++ 0#2 ++ range ++ avg ++ vbusct ++ vshct ++ mode

/-- The word of two wire bytes, high byte first (R43, R160). -/
def composeBytes (d0 d1 : Byte) : Word := d0 ++ d1

/-- The first wire byte of a word: its high byte (R43, R162). -/
def highByte (w : Word) : Byte := w.extractLsb' 8 8

/-- The second wire byte of a word: its low byte (R43, R162). -/
def lowByte (w : Word) : Byte := w.extractLsb' 0 8

/-- `v[15]`, the sign indicator of a ShuntVoltageWord (R76, R105). -/
def signBit (w : Word) : Bool := w.getLsbD 15

end Sys2Proof
end

