-- ==== Sys2Proof/Machine/State.lean ====
section
/-! DEFINITION. The response record (10_state.md R23), the machine's state as plain data, the reasons a step can stop,
and the state after reset.

RBFC "has no architectural state" (R20). A step of the interface goes from state to state, so State holds what stands
on the ports and, on the host's side, the requests it has issued and the responses it has collected (R29, R50;
log entry 1). No operation reads anything of it but its own request. -/

namespace Sys2Proof.Machine

/-- One response: every output port, at its width (R23). -/
structure Response where
  /-- the result -/
  y : BitVec 32
  /-- UNPACK.BE: first wire byte of a write, the high byte -/
  q0 : Byte
  /-- UNPACK.BE: second wire byte of a write, the low byte -/
  q1 : Byte
  /-- 1 when the request is illegal (60_exceptions.md R201) -/
  ill : BitVec 1
  /-- the illegal-request cause code (60_exceptions.md R202) -/
  cause : BitVec 2
deriving DecidableEq, Repr

/-- Why the machine stops. It never does: "every request has exactly one response" (10_state.md R36), and an illegal
request is answered in-band and leaves the next one untouched (60_exceptions.md R201, R204). So no constructor. -/
inductive Fault
deriving DecidableEq, Repr

/-- Why a step has no meaning. -/
inductive Refusal where
  /-- Raised by an arm of `exec` whose operation has no meaning yet. No arm does. Safe: the machine stops. -/
  | notModelled (mnemonic : String)
deriving DecidableEq, Repr

/-- The ports of RBFC and the host's two lists. -/
structure State where
  /-- the present request: what stands on the input ports (R21, R22) -/
  ports : Request
  /-- what stands on the output ports (R23): at every instant the response to the present request (R35) -/
  outs : Response
  /-- requests the host has issued and RBFC has not yet taken, oldest first (20_memory.md R50). DESIGN CHOICE (log entry
  16): ONE requester's list; 60_exceptions.md R212 allows several, whose requests cannot interfere -/
  pending : List Request
  /-- responses to the requests taken from `pending`, newest first (95_test_vectors.md section 3): those of the same one
  requester, running one program (log entry 16) -/
  served : List Response
deriving DecidableEq, Repr

/-- The machine right after reset. RBFC has no reset input and nothing to reset (70_reset_and_hazards.md R240). DESIGN
CHOICE (log entry 2): the input ports carry the all-zero request "as from an idle bus" (30_encoding.md R63), the host
has issued nothing; the outputs are then the response to that request (10_state.md R35), which is illegal: opcode 0x0,
cause 1 (60_exceptions.md R201, R202). -/
def State.reset : State where
  ports :=
    { op := 0, fsel := 0, a := 0, b := 0, d0 := 0, d1 := 0, cMode := 0, cVshct := 0, cVbusct := 0, cAvg := 0,
      cRange := 0, cRst := 0 }
  outs := { y := 0, q0 := 0, q1 := 0, ill := 1, cause := 1 }
  pending := []
  served := []

end Sys2Proof.Machine
end

