-- ==== Sys2Proof/Machine/Flags.lean ====
section
/-! DEFINITION. RBFC's only flag, `ill` with its `cause` code, written afresh by every request (10_state.md R31;
60_exceptions.md R202). -/

namespace Sys2Proof.Machine

/-- Why a request is illegal (R202). Code 0 is NONE and code 3 is never produced. -/
inductive IllegalCause where
  /-- ILLEGAL_OP: an unassigned opcode -/
  | illegalOp
  /-- ILLEGAL_FSEL: GETF or SETF with a reserved field select -/
  | illegalFsel
deriving DecidableEq, Repr

/-- The code on `cause` (R202). -/
def causeCode : IllegalCause → BitVec 2
  | .illegalOp => 1
  | .illegalFsel => 2

/-- `ill` and `cause` of a request: 0 and NONE when it is legal, 1 and the cause's code when it is not (R27, R202). -/
def flagsOf : Option IllegalCause → BitVec 1 × BitVec 2
  | none => (0, 0)
  | some c => (1, causeCode c)

end Sys2Proof.Machine
end

