-- ==== Sys2Proof/Machine/Ops.lean ====
section
/-! DEFINITION. The shared operations: how a result is placed on the output ports (10_state.md R26, R27), the illegal
response (60_exceptions.md R201), and how requests enter and responses leave (20_memory.md R50). -/

namespace Sys2Proof.Machine

/-! ### Responses -/

/-- A legal response: the named outputs, `ill` = 0 and `cause` = 0 (R27). -/
def Response.legal (y : BitVec 32) (q0 q1 : Byte) : Response :=
  { y, q0, q1, ill := (flagsOf none).1, cause := (flagsOf none).2 }

/-- `rsp <- {y: y, ill: 0, cause: 0}`: the outputs not named are 0 (R27). -/
def Response.ofY (y : BitVec 32) : Response := .legal y 0 0

/-- A 16-bit word or field value, zero-extended into `y` (R26). -/
def Response.ofWord (w : Word) : Response := .ofY (w.setWidth 32)

/-- A physical value: `y` = bits32(x) (R26). -/
def Response.ofF32 (x : F32) : Response := .ofY x

/-- `rsp <- {q0: …, q1: …}`: `y` is not named, so it is 0 (R27, R162). -/
def Response.ofBytes (q0 q1 : Byte) : Response := .legal 0 q0 q1

/-- The illegal response (R201). -/
def Response.illegal (c : IllegalCause) : Response :=
  { y := 0, q0 := 0, q1 := 0, ill := (flagsOf (some c)).1, cause := (flagsOf (some c)).2 }

/-! ### Effects on the state -/

/-- Drive the output ports. An operation does nothing else (20_memory.md R47). -/
def State.answer (s : State) (r : Response) : Host.Outcome State Fault Refusal := .next { s with outs := r }

/-- `raise IllegalRequest(code)`: "the illegal response is the whole effect" (R201). Nothing is saved, no mode changes,
control goes nowhere, and there is no return (R204, R205). -/
def raiseIllegal (c : IllegalCause) (s : State) : Host.Outcome State Fault Refusal := s.answer (.illegal c)

/-! ### The host's side -/

/-- The host issues a request: it joins the requests not yet taken (R50). -/
def State.issue (s : State) (r : Request) : State := { s with pending := s.pending ++ [r] }

/-- RBFC takes request `r`, leaving `rest` to come: `r` is now the present request (R50). -/
def State.take (s : State) (r : Request) (rest : List Request) : State := { s with ports := r, pending := rest }

/-- The host collects the response that stands on the output ports. -/
def State.collect (s : State) : State := { s with served := s.outs :: s.served }

/-- The response is complete before the next request is taken (R50): collect it where the operation ran. -/
def collectNext : Host.Outcome State Fault Refusal → Host.Outcome State Fault Refusal
  | .next t => .next t.collect
  | .fault f => .fault f
  | .refused r => .refused r

end Sys2Proof.Machine
end

