-- ==== Sys2Proof/Machine/ByteOps.lean ====
section
/-! DEFINITION. The wire byte operations PACK.BE and UNPACK.BE (43_bytes.md). -/

namespace Sys2Proof.Machine

/-- PACK.BE: the word of the two data bytes of a read, high byte first (R160). -/
def execPackBe (d0 d1 : Byte) (s : State) : Host.Outcome State Fault Refusal :=
  s.answer (.ofWord (composeBytes d0 d1))

/-- UNPACK.BE: the two data bytes of a write, high byte first; `y` is 0 (R162). -/
def execUnpackBe (a : Word) (s : State) : Host.Outcome State Fault Refusal :=
  s.answer (.ofBytes (highByte a) (lowByte a))

end Sys2Proof.Machine
end

