-- ==== Sys2Proof/Config.lean ====
section
/-! DEFINITION. The parameters of the block: the fixed ones of 00_scope.md R8, the one open parameter of R9, and the
free values of the binary32 primitives (log entry 8). The two binary32 constants of 10_state.md R24 stand with the
primitives in Machine/Float32.lean. -/

namespace Sys2Proof

/-- The open parameter `RegCmd` (R9): the command byte the transport sends for each register. It is an ARGUMENT of
every definition that uses it; a statement about it may assume only that it is injective (log entry 9). -/
abbrev RegCmd := RegName → Byte

/-- `CAL_BOOT`, the calibration value written at initialisation (R8). -/
def Config.calBoot : Word := 10

/-- `CFG_BOOT` (R8), in the order mode, shunt_time, bus_time, avg, range, reset. -/
def Config.cfgBoot : BitVec 3 × BitVec 3 × BitVec 3 × BitVec 3 × BitVec 1 × BitVec 1 :=
  (0x7, 0x2, 0x2, 0, 0, 0)

/-- FREE VALUE: the binary32 product of two operands one of which is an infinity or a NaN. The spec gives no rule for
these operands (93_implementation_defined.md G1) and no operation presents them (40_decode.md R101). -/
opaque Config.f32MulOpen : F32 → F32 → F32

/-- FREE VALUE: the binary32 quotient of two operands one of which is an infinity or a NaN, or whose divisor is a zero.
The spec gives no rule for these operands (93_implementation_defined.md G1) and no operation presents them
(40_decode.md R105, R107). -/
opaque Config.f32DivOpen : F32 → F32 → F32

end Sys2Proof
end

