-- ==== Sys2Proof/Machine/Float32.lean ====
section
/-! DEFINITION. The binary32 primitives of 00_scope.md R13 by exact integer arithmetic and ONE rounding, to nearest with
ties to even (92_eei_decisions.md D11), and the two hardwired constants of 10_state.md R24. Log entries 7 and 8. -/

namespace Sys2Proof

/-- Exponent field, bits 30:23 (R13). -/
def F32.expo (x : F32) : Nat := (x.extractLsb' 23 8).toNat

/-- Fraction field, bits 22:0 (R13). -/
def F32.frac (x : F32) : Nat := (x.extractLsb' 0 23).toNat

/-- Sign, bit 31 (R13). -/
def F32.sign (x : F32) : Bool := x.getLsbD 31

/-- The pattern is a number: neither an infinity nor a NaN. -/
def F32.finite (x : F32) : Bool := x.expo != 255

/-- The magnitude of a finite pattern, in units of 2^-149, in which every finite binary32 value is whole. A normal number
has a hidden bit; a subnormal one has none and the exponent of the smallest normal. -/
def F32.units (x : F32) : Nat := (if x.expo = 0 then x.frac else 2 ^ 23 + x.frac) * 2 ^ (x.expo - 1)

/-- `n / d` rounded to the nearest whole number, ties to even. -/
def roundDiv (n d : Nat) : Nat :=
  if 2 * (n % d) < d then n / d
  else if d < 2 * (n % d) then n / d + 1
  else n / d + n / d % 2

/-- The exponent step of the magnitude `n / d` units: how many powers of two its rounding grid is coarser than one unit.
A 24-bit significand is kept, and the grid is never finer than a unit. -/
def expoStep (n d : Nat) : Nat := Nat.log2 (n / d) - 23

/-- The bits 30:0 of the magnitude `n / d` units rounded to nearest, ties to even. The significand keeps its hidden bit
in the sum, so a carry out of it moves into the exponent by itself. A magnitude past the largest finite one gives the
infinity. -/
def roundUnits (n d : Nat) : Nat :=
  min 0x7F800000 (expoStep n d * 2 ^ 23 + roundDiv n (d * 2 ^ expoStep n d))

/-- The binary32 pattern of `± num / den`, rounded to nearest, ties to even. -/
def roundF32 (sign : Bool) (num den : Nat) : F32 :=
  BitVec.ofBool sign ++ BitVec.ofNat 31 (roundUnits (num * 2 ^ 149) den)

/-- `toF32(n)`: the binary32 value of an unsigned integer (R13). -/
def toF32 (n : BitVec 32) : F32 := roundF32 false n.toNat 1

/-- `lit32(d)`: the decimal literal `num / den` rounded to binary32 (R13). -/
def lit32 (num den : Nat) : F32 := roundF32 false num den

/-- `mulF32(x, y)` (R13). The product of the exact values, rounded once. For an infinity or a NaN the spec gives no rule:
a free value. -/
def mulF32 (x y : F32) : F32 :=
  if x.finite && y.finite then
    roundF32 (x.sign ^^ y.sign) (x.units * y.units) (2 ^ 149 * 2 ^ 149)
  else Config.f32MulOpen x y

/-- `divF32(x, y)` (R13). The quotient of the exact values, rounded once. For an infinity, a NaN or a zero divisor the
spec gives no rule: a free value. -/
def divF32 (x y : F32) : F32 :=
  if x.finite && y.finite && y.units != 0 then
    roundF32 (x.sign ^^ y.sign) x.units y.units
  else Config.f32DivOpen x y

/-- `VBUS_SCALE`, hardwired: lit32(0.0016) (10_state.md R24). -/
def vbusScale : F32 := 0x3AD1B717#32

/-- `ISHUNT_DIV`, hardwired: lit32(3970.0) (10_state.md R24). -/
def ishuntDiv : F32 := 0x45782000#32

end Sys2Proof
end

