-- ==== Sys2Proof/Machine/DecodeOps.lean ====
section
/-! DEFINITION. The decode operations DEC.VBUS and DEC.ISHUNT (40_decode.md). -/

namespace Sys2Proof.Machine

/-- DEC.VBUS: the whole raw word, status bits and all, times VBUS_SCALE in binary32 (R100, R102, R103). -/
def execDecVbus (a : Word) (s : State) : Host.Outcome State Fault Refusal :=
  s.answer (.ofF32 (mulF32 (toF32 (a.setWidth 32)) vbusScale))

/-- DEC.ISHUNT: +0.0 when bit 15 is set, else the raw word over ISHUNT_DIV in binary32 (R105, R106, R108). -/
def execDecIshunt (a : Word) (s : State) : Host.Outcome State Fault Refusal :=
  s.answer (.ofF32 (if signBit a then 0 else divF32 (toF32 (a.setWidth 32)) ishuntDiv))

end Sys2Proof.Machine
end

