-- ==== Sys2Proof/Machine/EncodeOps.lean ====
section
/-! DEFINITION. The encode operations ENC.CONFIG and ENC.CAL (41_encode.md). -/

namespace Sys2Proof.Machine

/-- ENC.CONFIG: pack the six fields, reserved bits 14:13 forced 0 (R120, R121). -/
def execEncConfig (mode vshct vbusct avg : BitVec 3) (range rst : BitVec 1) (s : State) :
    Host.Outcome State Fault Refusal :=
  s.answer (.ofWord (packConfig mode vshct vbusct avg range rst))

/-- ENC.CAL: the identity on all 16 bits, the reserved top bit among them (R125; 90_conflicts.md C6). -/
def execEncCal (a : Word) (s : State) : Host.Outcome State Fault Refusal := s.answer (.ofWord a)

end Sys2Proof.Machine
end

