-- ==== Sys2Proof/Machine/FieldOps.lean ====
section
/-! DEFINITION. The field accessors GETF and SETF (42_field.md). -/

namespace Sys2Proof.Machine

/-- GETF: the named field of `a`, zero-extended, or ILLEGAL_FSEL for a reserved select (R140). -/
def execGetf (sel : FieldSel) (a : Word) (s : State) : Host.Outcome State Fault Refusal :=
  match sel with
  | .named f => s.answer (.ofWord (getField f a))
  | .reserved0xE => raiseIllegal .illegalFsel s
  | .reserved0xF => raiseIllegal .illegalFsel s

/-- SETF: `a` with the named field replaced by the low bits of `b`, or ILLEGAL_FSEL for a reserved select (R141). -/
def execSetf (sel : FieldSel) (a b : Word) (s : State) : Host.Outcome State Fault Refusal :=
  match sel with
  | .named f => s.answer (.ofWord (setField f a b))
  | .reserved0xE => raiseIllegal .illegalFsel s
  | .reserved0xF => raiseIllegal .illegalFsel s

end Sys2Proof.Machine
end

