-- ==== Sys2Proof/Machine/IllegalOps.lean ====
section
/-! DEFINITION. The unassigned opcodes 0x0 and 0x9 to 0xF: each answers the illegal response with cause ILLEGAL_OP
(30_encoding.md R63; 60_exceptions.md R201, R202). The field select is not examined (R203). -/

namespace Sys2Proof.Machine

/-- Opcode 0x0, unassigned (R201). -/
def execIllegalOp0x0 (s : State) : Host.Outcome State Fault Refusal := raiseIllegal .illegalOp s

/-- Opcode 0x9, unassigned (R201). -/
def execIllegalOp0x9 (s : State) : Host.Outcome State Fault Refusal := raiseIllegal .illegalOp s

/-- Opcode 0xA, unassigned (R201). -/
def execIllegalOp0xA (s : State) : Host.Outcome State Fault Refusal := raiseIllegal .illegalOp s

/-- Opcode 0xB, unassigned (R201). -/
def execIllegalOp0xB (s : State) : Host.Outcome State Fault Refusal := raiseIllegal .illegalOp s

/-- Opcode 0xC, unassigned (R201). -/
def execIllegalOp0xC (s : State) : Host.Outcome State Fault Refusal := raiseIllegal .illegalOp s

/-- Opcode 0xD, unassigned (R201). -/
def execIllegalOp0xD (s : State) : Host.Outcome State Fault Refusal := raiseIllegal .illegalOp s

/-- Opcode 0xE, unassigned (R201). -/
def execIllegalOp0xE (s : State) : Host.Outcome State Fault Refusal := raiseIllegal .illegalOp s

/-- Opcode 0xF, unassigned (R201). -/
def execIllegalOp0xF (s : State) : Host.Outcome State Fault Refusal := raiseIllegal .illegalOp s

end Sys2Proof.Machine
end

