-- ==== Sys2Proof/Machine/Dispatch.lean ====
section
/-! DEFINITION. One arm per operation (10_state.md R36). -/

namespace Sys2Proof.Machine

def exec (i : Instr) (s : State) : Host.Outcome State Fault Refusal :=
  match i with
  | .decVbus a => Sys2Proof.Machine.execDecVbus a s
  | .decIshunt a => Sys2Proof.Machine.execDecIshunt a s
  | .encConfig mode vshct vbusct avg range rst => Sys2Proof.Machine.execEncConfig mode vshct vbusct avg range rst s
  | .encCal a => Sys2Proof.Machine.execEncCal a s
  | .getf sel a => Sys2Proof.Machine.execGetf sel a s
  | .setf sel a b => Sys2Proof.Machine.execSetf sel a b s
  | .packBe d0 d1 => Sys2Proof.Machine.execPackBe d0 d1 s
  | .unpackBe a => Sys2Proof.Machine.execUnpackBe a s
  | .illegalOp0x0 => Sys2Proof.Machine.execIllegalOp0x0 s
  | .illegalOp0x9 => Sys2Proof.Machine.execIllegalOp0x9 s
  | .illegalOp0xA => Sys2Proof.Machine.execIllegalOp0xA s
  | .illegalOp0xB => Sys2Proof.Machine.execIllegalOp0xB s
  | .illegalOp0xC => Sys2Proof.Machine.execIllegalOp0xC s
  | .illegalOp0xD => Sys2Proof.Machine.execIllegalOp0xD s
  | .illegalOp0xE => Sys2Proof.Machine.execIllegalOp0xE s
  | .illegalOp0xF => Sys2Proof.Machine.execIllegalOp0xF s

end Sys2Proof.Machine
end

