-- ==== Sys2Proof/Machine/Step.lean ====
section
/-! DEFINITION. One step: RBFC takes the oldest request the host has issued, answers it, and the host collects the
response (20_memory.md R50, 10_state.md R20). -/

namespace Sys2Proof.Machine

/-- One step. With a request issued: take it, run the operation it names, collect the response. With none issued, the
ports keep the present request, the outputs are its response (10_state.md R35), and there is nothing to collect
(DESIGN CHOICE, log entry 4). -/
def step (s : State) : Host.Outcome State Fault Refusal :=
  match s.pending with
  | [] => exec (decodeRequest s.ports) s
  | r :: rest => collectNext (exec (decodeRequest r) (s.take r rest))

/-- `s` with the request whose image has the low `nbits` bits `w` put before every request the host has issued, so that
the very next step takes it (log entry 3). -/
def State.withFetchWord (s : State) (nbits w : Nat) : State :=
  { s with pending := Request.ofImage (imageOfTableWord nbits w) :: s.pending }

/-- The spec's `exec : Request → Response` (10_state.md R20): what stands on the output ports after the request alone. -/
def respond (r : Request) : Response :=
  match exec (decodeRequest r) State.reset with
  | .next t => t.outs
  | .fault _ => State.reset.outs
  | .refused _ => State.reset.outs

end Sys2Proof.Machine
end

