-- ==== Sys2Proof/Machine/Assembler.lean ====
section
/-! DEFINITION. The assembler of listings (30_encoding.md R79) and its pseudo-instructions (R80): a line of text to an
abstract line, an abstract line to one request. It is notation for the host; RBFC does not read it
(92_eei_decisions.md D19). What R79 leaves open is in log entry 11. -/

namespace Sys2Proof.Machine

/-- The mnemonics that stand for an operation themselves (R79). -/
inductive CoreMnemonic where
  | decVbus
  | decIshunt
  | encConfig
  | encCal
  | getf
  | setf
  | packBe
  | unpackBe
deriving DecidableEq, Repr

/-- The pseudo-instructions (R80). -/
inductive Pseudo where
  | calBoot
  | cfgBoot
  | vbusMag
  | shuntNeg
  | calGet
deriving DecidableEq, Repr

/-- What a line may begin with. -/
inductive Mnemonic where
  | core (m : CoreMnemonic)
  | pseudo (p : Pseudo)
deriving DecidableEq, Repr

/-- The named operands (R79). -/
inductive OperandName where
  | a
  | b
  | d0
  | d1
  | mode
  | vshct
  | vbusct
  | avg
  | range
  | rst
deriving DecidableEq, Repr

/-- What an operand is given: a number, or the name of an earlier response (R79). -/
inductive Arg where
  | num (n : Nat)
  | name (x : String)
deriving DecidableEq, Repr

/-- The output port whose value a name takes, as `; cal <- y` writes it. -/
inductive OutPort where
  | y
  | q0
  | q1
deriving DecidableEq, Repr

/-- One line: a mnemonic, a field for GETF and SETF, named operands, and a name for the response (R79). -/
structure AsmLine where
  mnemonic : Mnemonic
  field : Option Field
  operands : List (OperandName × Arg)
  result : Option (String × OutPort)
deriving DecidableEq, Repr

/-- Why a line is no request. -/
inductive AsmError where
  /-- a name no earlier line gave -/
  | unboundName (x : String)
  /-- a value that does not fit its operand: "Values wider than the field cannot be presented" (R22) -/
  | tooWide (o : OperandName) (value : Nat)
  /-- an operand the mnemonic does not take -/
  | operandNotTaken (o : OperandName)
  /-- an operand given twice -/
  | operandRepeated (o : OperandName)
  /-- GETF or SETF without a field -/
  | fieldMissing
  /-- a field where the mnemonic takes none -/
  | fieldNotTaken
  /-- a first word that is no mnemonic -/
  | unknownMnemonic (x : String)
  /-- a word that is no field name -/
  | unknownField (x : String)
  /-- a word that is no operand name -/
  | unknownOperand (x : String)
  /-- a word that is neither a number nor a name -/
  | badValue (x : String)
  /-- text that is not of the form of a line -/
  | badForm
deriving DecidableEq, Repr

/-- The width of an operand (R21, R22). -/
def OperandName.width : OperandName → Nat
  | .a => 16
  | .b => 16
  | .d0 => 8
  | .d1 => 8
  | .mode => 3
  | .vshct => 3
  | .vbusct => 3
  | .avg => 3
  | .range => 1
  | .rst => 1

/-- The operands of a mnemonic (R79). -/
def CoreMnemonic.takes : CoreMnemonic → List OperandName
  | .decVbus => [.a]
  | .decIshunt => [.a]
  | .encConfig => [.mode, .vshct, .vbusct, .avg, .range, .rst]
  | .encCal => [.a]
  | .getf => [.a]
  | .setf => [.a, .b]
  | .packBe => [.d0, .d1]
  | .unpackBe => [.a]

/-- Whether a mnemonic takes a field (R79). -/
def CoreMnemonic.takesField : CoreMnemonic → Bool
  | .getf => true
  | .setf => true
  | .decVbus => false
  | .decIshunt => false
  | .encConfig => false
  | .encCal => false
  | .packBe => false
  | .unpackBe => false

/-! ### Pseudo-instructions (R80) -/

/-- The line a pseudo-instruction with these operands stands for (R80). CAL.BOOT and CFG.BOOT take no operand; the
others hand theirs on. -/
def Pseudo.expand (p : Pseudo) (field : Option Field) (operands : List (OperandName × Arg)) :
    Except AsmError (CoreMnemonic × Option Field × List (OperandName × Arg)) :=
  match field with
  | some _ => .error .fieldNotTaken
  | none =>
    match p, operands with
    | .calBoot, [] => .ok (.encCal, none, [(.a, .num 0x000A)])
    | .cfgBoot, [] =>
      .ok (.encConfig, none,
        [(.mode, .num 7), (.vshct, .num 2), (.vbusct, .num 2), (.avg, .num 0), (.range, .num 0), (.rst, .num 0)])
    | .calBoot, (o, _) :: _ => .error (.operandNotTaken o)
    | .cfgBoot, (o, _) :: _ => .error (.operandNotTaken o)
    | .vbusMag, ops => .ok (.getf, some .busVbus, ops)
    | .shuntNeg, ops => .ok (.getf, some .shuntSign, ops)
    | .calGet, ops => .ok (.getf, some .calValue, ops)

/-- A line's mnemonic, field and operands with a pseudo-instruction replaced by what it stands for. -/
def Mnemonic.expand (m : Mnemonic) (field : Option Field) (operands : List (OperandName × Arg)) :
    Except AsmError (CoreMnemonic × Option Field × List (OperandName × Arg)) :=
  match m with
  | .core c => .ok (c, field, operands)
  | .pseudo p => p.expand field operands

/-! ### Operands -/

/-- The values that names of earlier responses stand for. -/
abbrev Env := List (String × Nat)

/-- The value an argument stands for (R79). -/
def Arg.value (env : Env) : Arg → Except AsmError Nat
  | .num n => .ok n
  | .name x =>
    match env.lookup x with
    | some n => .ok n
    | none => .error (.unboundName x)

/-- The values of a line's operands: each is taken by the mnemonic, given once, and fits its width. -/
def operandValues (env : Env) (c : CoreMnemonic) :
    List (OperandName × Arg) → Except AsmError (List (OperandName × Nat))
  | [] => .ok []
  | (o, arg) :: rest =>
    if o ∉ c.takes then .error (.operandNotTaken o)
    else if o ∈ rest.map Prod.fst then .error (.operandRepeated o)
    else
      match arg.value env, operandValues env c rest with
      | .error e, _ => .error e
      | .ok _, .error e => .error e
      | .ok n, .ok values => if n < 2 ^ o.width then .ok ((o, n) :: values) else .error (.tooWide o n)

/-- The value of an operand: "A port not written is 0" (R79). -/
def valueOf (values : List (OperandName × Nat)) (o : OperandName) : Nat := (values.lookup o).getD 0

/-- The operation a mnemonic and its operand values name. -/
def CoreMnemonic.instr (c : CoreMnemonic) (field : Option Field) (v : OperandName → Nat) : Except AsmError Instr :=
  match c, field with
  | .decVbus, none => .ok (.decVbus (BitVec.ofNat 16 (v .a)))
  | .decIshunt, none => .ok (.decIshunt (BitVec.ofNat 16 (v .a)))
  | .encConfig, none =>
    .ok (.encConfig (BitVec.ofNat 3 (v .mode)) (BitVec.ofNat 3 (v .vshct)) (BitVec.ofNat 3 (v .vbusct))
      (BitVec.ofNat 3 (v .avg)) (BitVec.ofNat 1 (v .range)) (BitVec.ofNat 1 (v .rst)))
  | .encCal, none => .ok (.encCal (BitVec.ofNat 16 (v .a)))
  | .packBe, none => .ok (.packBe (BitVec.ofNat 8 (v .d0)) (BitVec.ofNat 8 (v .d1)))
  | .unpackBe, none => .ok (.unpackBe (BitVec.ofNat 16 (v .a)))
  | .getf, some f => .ok (.getf (.named f) (BitVec.ofNat 16 (v .a)))
  | .setf, some f => .ok (.setf (.named f) (BitVec.ofNat 16 (v .a)) (BitVec.ofNat 16 (v .b)))
  | .getf, none => .error .fieldMissing
  | .setf, none => .error .fieldMissing
  | .decVbus, some _ => .error .fieldNotTaken
  | .decIshunt, some _ => .error .fieldNotTaken
  | .encConfig, some _ => .error .fieldNotTaken
  | .encCal, some _ => .error .fieldNotTaken
  | .packBe, some _ => .error .fieldNotTaken
  | .unpackBe, some _ => .error .fieldNotTaken

/-- The one request a line stands for (R79, R80). -/
def assemble (env : Env) (l : AsmLine) : Except AsmError Request :=
  match l.mnemonic.expand l.field l.operands with
  | .error e => .error e
  | .ok (c, field, operands) =>
    match operandValues env c operands with
    | .error e => .error e
    | .ok values =>
      match c.instr field (valueOf values) with
      | .error e => .error e
      | .ok i => .ok (encodeRequest i)

/-! ### Text (R79) -/

/-- The spelling of a mnemonic (R79, R80). -/
def mnemonicOf (x : String) : Except AsmError Mnemonic :=
  if x = "DEC.VBUS" then .ok (.core .decVbus)
  else if x = "DEC.ISHUNT" then .ok (.core .decIshunt)
  else if x = "ENC.CONFIG" then .ok (.core .encConfig)
  else if x = "ENC.CAL" then .ok (.core .encCal)
  else if x = "GETF" then .ok (.core .getf)
  else if x = "SETF" then .ok (.core .setf)
  else if x = "PACK.BE" then .ok (.core .packBe)
  else if x = "UNPACK.BE" then .ok (.core .unpackBe)
  else if x = "CAL.BOOT" then .ok (.pseudo .calBoot)
  else if x = "CFG.BOOT" then .ok (.pseudo .cfgBoot)
  else if x = "VBUS.MAG" then .ok (.pseudo .vbusMag)
  else if x = "SHUNT.NEG" then .ok (.pseudo .shuntNeg)
  else if x = "CAL.GET" then .ok (.pseudo .calGet)
  else .error (.unknownMnemonic x)

/-- The spelling of a field (R70). -/
def Field.spelling : Field → String
  | .cfgMode => "CFG.MODE"
  | .cfgVshct => "CFG.VSHCT"
  | .cfgVbusct => "CFG.VBUSCT"
  | .cfgAvg => "CFG.AVG"
  | .cfgAdcrange => "CFG.ADCRANGE"
  | .cfgRsvd => "CFG.RSVD"
  | .cfgRst => "CFG.RST"
  | .busOvf => "BUS.OVF"
  | .busCnvr => "BUS.CNVR"
  | .busRsvd => "BUS.RSVD"
  | .busVbus => "BUS.VBUS"
  | .calValue => "CAL.VALUE"
  | .calRsvd => "CAL.RSVD"
  | .shuntSign => "SHUNT.SIGN"

/-- The field a word spells (R70). -/
def fieldOf (x : String) : Except AsmError Field :=
  match Field.all.find? (fun f => Field.spelling f == x) with
  | some f => .ok f
  | none => .error (.unknownField x)

/-- The operand a word spells (R79). -/
def operandOf (x : String) : Except AsmError OperandName :=
  if x = "a" then .ok .a
  else if x = "b" then .ok .b
  else if x = "d0" then .ok .d0
  else if x = "d1" then .ok .d1
  else if x = "mode" then .ok .mode
  else if x = "vshct" then .ok .vshct
  else if x = "vbusct" then .ok .vbusct
  else if x = "avg" then .ok .avg
  else if x = "range" then .ok .range
  else if x = "rst" then .ok .rst
  else .error (.unknownOperand x)

/-- The output port a word spells (10_state.md R23). -/
def outPortOf (x : String) : Except AsmError OutPort :=
  if x = "y" then .ok .y
  else if x = "q0" then .ok .q0
  else if x = "q1" then .ok .q1
  else .error .badForm

/-- The value of a digit in hex, capitals or small letters. -/
def digitValue (c : Char) : Option Nat :=
  if '0' ≤ c ∧ c ≤ '9' then some (c.toNat - '0'.toNat)
  else if 'a' ≤ c ∧ c ≤ 'f' then some (c.toNat - 'a'.toNat + 10)
  else if 'A' ≤ c ∧ c ≤ 'F' then some (c.toNat - 'A'.toNat + 10)
  else none

/-- The number a run of digits writes in the base, after the digits read so far. -/
def digitsValue (base : Nat) (soFar : Nat) : List Char → Option Nat
  | [] => some soFar
  | c :: cs =>
    match digitValue c with
    | some d => if d < base then digitsValue base (soFar * base + d) cs else none
    | none => none

/-- The number a word writes: "hex with `0x` or decimal" (R79). -/
def numberOf : List Char → Option Nat
  | '0' :: 'x' :: c :: cs => digitsValue 16 0 (c :: cs)
  | c :: cs => digitsValue 10 0 (c :: cs)
  | [] => none

/-- The argument a word stands for: a word that begins with a digit is a number, any other a name (log entry 11). -/
def argOf (x : String) : Except AsmError Arg :=
  match x.toList with
  | [] => .error (.badValue x)
  | c :: cs =>
    if '0' ≤ c ∧ c ≤ '9' then
      match numberOf (c :: cs) with
      | some n => .ok (.num n)
      | none => .error (.badValue x)
    else .ok (.name x)

/-- A word that is complete, put before the words that follow it; nothing if it is empty. -/
def flushWord (word : List Char) (words : List String) : List String :=
  if word.isEmpty then words else String.ofList word.reverse :: words

/-- The words of a text: blanks part them, and a comma, an equals sign and a semicolon is each a word of its own. `word`
is the word being read, last character first. -/
def wordsOf (word : List Char) : List Char → List String
  | [] => flushWord word []
  | c :: cs =>
    if c = ' ' ∨ c = '\t' then flushWord word (wordsOf [] cs)
    else if c = ',' ∨ c = '=' ∨ c = ';' then flushWord word (String.ofList [c] :: wordsOf [] cs)
    else wordsOf (c :: word) cs

/-- `; name <- result`, or nothing. -/
def resultOf : List String → Except AsmError (Option (String × OutPort))
  | [] => .ok none
  | [semicolon, x, arrow, port] =>
    if semicolon = ";" ∧ arrow = "<-" then
      match argOf x, outPortOf port with
      | .ok (.name n), .ok p => .ok (some (n, p))
      | _, _ => .error .badForm
    else .error .badForm
  | _ => .error .badForm

/-- Named operands parted by commas, then the name of the response. -/
def operandsOf : List String → Except AsmError (List (OperandName × Arg) × Option (String × OutPort))
  | o :: equals :: v :: rest =>
    if equals = "=" then
      match operandOf o, argOf v with
      | .error e, _ => .error e
      | _, .error e => .error e
      | .ok name, .ok arg =>
        match rest with
        | comma :: more =>
          if comma = "," then
            if more.isEmpty then .error .badForm
            else
              match operandsOf more with
              | .error e => .error e
              | .ok (ops, result) => .ok ((name, arg) :: ops, result)
          else
            match resultOf (comma :: more) with
            | .error e => .error e
            | .ok result => .ok ([(name, arg)], result)
        | [] => .ok ([(name, arg)], none)
    else
      match resultOf (o :: equals :: v :: rest) with
      | .error e => .error e
      | .ok result => .ok ([], result)
  | words =>
    match resultOf words with
    | .error e => .error e
    | .ok result => .ok ([], result)

/-- Whether the line's next word is a field (R79). -/
def Mnemonic.takesField : Mnemonic → Bool
  | .core c => c.takesField
  | .pseudo _ => false

/-- The field of GETF and SETF, with the comma that parts it from the operands (R79). -/
def fieldWords (m : Mnemonic) (words : List String) : Except AsmError (Option Field × List String) :=
  if m.takesField then
    match words with
    | [] => .error .fieldMissing
    | x :: rest =>
      match fieldOf x with
      | .error e => .error e
      | .ok f =>
        match rest with
        | comma :: more => if comma = "," then .ok (some f, more) else .ok (some f, comma :: more)
        | [] => .ok (some f, [])
  else .ok (none, words)

/-- A line of text read (R79). -/
def parseLine (text : String) : Except AsmError AsmLine :=
  match wordsOf [] text.toList with
  | [] => .error .badForm
  | x :: words =>
    match mnemonicOf x with
    | .error e => .error e
    | .ok mnemonic =>
      match fieldWords mnemonic words with
      | .error e => .error e
      | .ok (field, rest) =>
        match operandsOf rest with
        | .error e => .error e
        | .ok (operands, result) => .ok { mnemonic, field, operands, result }

end Sys2Proof.Machine
end

