-- ==== Sys2Proof/Safety.lean ====
section
/-! DEFINITION. The terms claims use: when the outputs stand right, when a program of the host is faulted
(60_exceptions.md R207), which register writes a host may send (93_implementation_defined.md U1, U3), and what a
correctly rounded binary32 result is (00_scope.md R13; 92_eei_decisions.md D11). -/

namespace Sys2Proof.Machine

/-- The outputs are the response to the present request: "at every instant they are `exec(req)`" (10_state.md R35). -/
abbrev State.Settled (s : State) : Prop := s.outs = respond s.ports

/-- The host's program is faulted: one of its requests was answered with `ill` = 1. Responses already collected are
never removed, so this is "never cleared by a later request" (R207). DESIGN CHOICE (log entry 16): the lists of State are
those of one requester and one program, so the fault is that program's alone; another requester's program
(60_exceptions.md R212) is another State. -/
def State.programFaulted (s : State) : Bool := s.served.any (fun r => r.ill == 1)

/-- The place, from 0, of the first request of the program that was illegal (95_test_vectors.md P5 faults "at line 2",
which is place 1). -/
def State.firstIllegal (s : State) : Option Nat := s.served.reverse.findIdx? (fun r => r.ill == 1)

/-- A safe run: no request of the host was illegal. -/
def State.safe (s : State) : Bool := !s.programFaulted

/-- The host's program is final: every request it issued is served and the run is safe. A faulted program is "never
final" (R207). -/
def State.programFinal (s : State) : Bool := s.pending.isEmpty && s.safe

/-- What the host reads as the field's value when it issues GETF. -/
def getfResult (f : Field) (a : Word) : Word := (respond (encodeRequest (.getf (.named f) a))).y.setWidth 16

/-- What the host reads as the new word when it issues SETF. -/
def setfResult (f : Field) (a b : Word) : Word := (respond (encodeRequest (.setf (.named f) a b))).y.setWidth 16

end Sys2Proof.Machine

namespace Sys2Proof

/-- Whether a host may send the word to the register: a Configuration write has bits 14:13 zero (30_encoding.md R73,
U1), a Calibration write has bit 15 zero (U3). RBFC itself checks neither (42_field.md R144, 41_encode.md R125). -/
def writeAllowed (r : RegName) (w : Word) : Bool :=
  match r with
  | .configuration => w &&& 0x6000#16 == 0
  | .calibration => w &&& 0x8000#16 == 0
  | .shuntVoltage => true
  | .busVoltage => true
  | .power => true
  | .current => true

/-- How far apart two whole numbers are. -/
def distance (m n : Nat) : Nat := (m - n) + (n - m)

/-- `y` is the value `num / den` rounded to binary32 to nearest, ties to even (D11): a finite pattern of sign 0, no
finite pattern of sign 0 lies nearer, and if another lies as near then `y` has the even fraction. -/
def NearestEven (num den : Nat) (y : F32) : Prop :=
  y.sign = false ∧ y.finite = true ∧
    ∀ z : F32, z.sign = false → z.finite = true →
      distance (y.units * den) (num * 2 ^ 149) ≤ distance (z.units * den) (num * 2 ^ 149) ∧
        (z ≠ y → distance (y.units * den) (num * 2 ^ 149) = distance (z.units * den) (num * 2 ^ 149) →
          y.frac % 2 = 0)

end Sys2Proof
end

