-- ==== Sys2Proof/Machine/HostProgram.lean ====
section
/-! DEFINITION. A program of the host: "a host-ordered sequence of requests" (10_state.md R29), where a line may use the
response of an earlier one because the host forwards it (70_reset_and_hazards.md R247, 95_test_vectors.md section 3), and
where a response with `ill` = 1 faults the program for good (60_exceptions.md R207). -/

namespace Sys2Proof.Machine

/-- One line of a program: an assembler line, or a bare request such as the illegal one of 95_test_vectors.md P5. -/
inductive HostItem where
  | line (l : AsmLine)
  | request (r : Request)
deriving DecidableEq, Repr

/-- Why a line of a program cannot be run. -/
inductive HostError where
  /-- the line is no request -/
  | assembler (e : AsmError)
  /-- the machine did not answer; it always does (10_state.md R36) -/
  | noResponse
deriving DecidableEq, Repr

/-- How the run of a program ends. -/
inductive ProgramEnd where
  /-- every line served, no response with `ill` = 1: the names the host has, and the machine -/
  | final (env : Env) (s : State)
  /-- a response had `ill` = 1: the program is refused, and no later line makes it final (R207; 92_eei_decisions.md D5).
  `s.firstIllegal` is the place of the line -/
  | faulted (s : State)
  /-- a line of a program not faulted so far names no request. The spec does not say how such a program ends: DESIGN
  CHOICE, log entry 17 -/
  | broken (e : HostError)
deriving DecidableEq, Repr

/-- The value of an output port (10_state.md R23). -/
def OutPort.read (r : Response) : OutPort → Nat
  | .y => r.y.toNat
  | .q0 => r.q0.toNat
  | .q1 => r.q1.toNat

/-- The request of a line, and the name its response takes. -/
def HostItem.request? (env : Env) : HostItem → Except HostError (Request × Option (String × OutPort))
  | .line l =>
    match assemble env l with
    | .ok r => .ok (r, l.result)
    | .error e => .error (.assembler e)
  | .request r => .ok (r, none)

/-- The names known after a response: the line's own name hides an earlier one (log entry 11). -/
def bindResult (env : Env) (r : Response) : Option (String × OutPort) → Env
  | none => env
  | some (x, port) => (x, port.read r) :: env

/-- Run one line: issue its request, step until it is served, name the response. Requests issued before it are served
first (20_memory.md R50). -/
def runItem (env : Env) (item : HostItem) (s : State) : Except HostError (Env × State) :=
  match item.request? env with
  | .error e => .error e
  | .ok (r, result) =>
    match Host.Core.run Sys2Proof.core (s.pending.length + 1) (s.issue r) with
    | .next t => .ok (bindResult env t.outs result, t)
    | .fault _ => .error .noResponse
    | .refused _ => .error .noResponse

/-- The end of a run at `s` that would otherwise be `e`: faulted, whatever it would be, once a response had `ill` = 1
(R207: "never final, never cleared by a later request"). -/
def verdict (s : State) (e : ProgramEnd) : ProgramEnd := if s.programFaulted then .faulted s else e

/-- Run a program line by line. RBFC serves the lines after an illegal one as if it had not happened (R204); the
program stays faulted all the same (R207; 95_test_vectors.md P5). DESIGN CHOICE (log entry 17), the spec being silent: a
line that names no request ends the run, broken or faulted if it was so already, and the lines after it are not
served. -/
def runProgram : List HostItem → Env → State → ProgramEnd
  | [], env, s => verdict s (.final env s)
  | item :: items, env, s =>
    match runItem env item s with
    | .error e => verdict s (.broken e)
    | .ok (env', t) => runProgram items env' t

end Sys2Proof.Machine
end

