-- ==== Sys2Proof/Machine/Wire.lean ====
section
/-! DEFINITION. What the host makes of RBFC's words on the wire: a whole register transaction (43_bytes.md R164,
20_memory.md R42 to R44) and the initialisation sequence that fixes the boot words (70_reset_and_hazards.md R245). The
transport that moves the bytes is out of scope (00_scope.md R6). -/

namespace Sys2Proof.Machine

/-- The bytes of a register write, in order: command byte, high byte, low byte (R164). -/
def writeBytes (cmd : RegCmd) (r : RegName) (w : Word) : List Byte := [cmd r, highByte w, lowByte w]

/-- The byte the host sends to begin a register read (R164). -/
def readCommand (cmd : RegCmd) (r : RegName) : List Byte := [cmd r]

/-- The raw word of the data bytes the chip returns, in the order received: a register read moves exactly two
(R43, R44, R161). -/
def rawWord : List Byte → Option Word
  | [d0, d1] => some (composeBytes d0 d1)
  | _ => none

/-- One action of the initialisation sequence (R245). -/
inductive InitAction where
  /-- write the register with the word the operation encodes -/
  | write (r : RegName) (i : Instr)
  /-- read all six registers once; the order of the reads is not given (91_not_in_source.md N11) -/
  | readAllSix
deriving DecidableEq, Repr

/-- The initialisation sequence, "in order": calibration, configuration, the six reads (R245). -/
def initSequence : List InitAction :=
  [.write .calibration (.encCal Config.calBoot),
    .write .configuration
      (.encConfig Config.cfgBoot.1 Config.cfgBoot.2.1 Config.cfgBoot.2.2.1 Config.cfgBoot.2.2.2.1
        Config.cfgBoot.2.2.2.2.1 Config.cfgBoot.2.2.2.2.2),
    .readAllSix]

/-- The bytes the host sends for an action: those of the word RBFC answers the operation with. The reads of
`readAllSix` are the transport's, in an order not given, so they are no bytes here. -/
def InitAction.bytes (cmd : RegCmd) : InitAction → List (List Byte)
  | .write r i => [writeBytes cmd r ((respond (encodeRequest i)).y.setWidth 16)]
  | .readAllSix => []

/-- The register writes of the initialisation sequence, each as its bytes. -/
def initWrites (cmd : RegCmd) : List (List Byte) := initSequence.flatMap (InitAction.bytes cmd)

end Sys2Proof.Machine
end

