-- ==== Sys2Proof/WellFormed.lean ====
section
/-! DEFINITION. Which operations are legal requests: an assigned opcode, and for GETF and SETF an assigned field select
(30_encoding.md R63, 60_exceptions.md R200, R201). Operand widths need no check, the types fix them (10_state.md R22;
92_eei_decisions.md D9). An operation that fails a check still decodes, encodes and runs: it answers the illegal
response. Log entry 12. -/

namespace Sys2Proof

/-- The field select is one of 0x0 to 0xD (R70). -/
def FieldSel.assigned : FieldSel → Bool
  | .named _ => true
  | .reserved0xE => false
  | .reserved0xF => false

/-- The opcode is one of 0x1 to 0x8 (R62). -/
def Instr.opcodeAssigned : Instr → Bool
  | .decVbus _ => true
  | .decIshunt _ => true
  | .encConfig _ _ _ _ _ _ => true
  | .encCal _ => true
  | .getf _ _ => true
  | .setf _ _ _ => true
  | .packBe _ _ => true
  | .unpackBe _ => true
  | .illegalOp0x0 => false
  | .illegalOp0x9 => false
  | .illegalOp0xA => false
  | .illegalOp0xB => false
  | .illegalOp0xC => false
  | .illegalOp0xD => false
  | .illegalOp0xE => false
  | .illegalOp0xF => false

/-- The field select an operation examines is assigned; an operation that examines none passes (R25, R63). -/
def Instr.selectAssigned : Instr → Bool
  | .getf sel _ => sel.assigned
  | .setf sel _ _ => sel.assigned
  | .decVbus _ => true
  | .decIshunt _ => true
  | .encConfig _ _ _ _ _ _ => true
  | .encCal _ => true
  | .packBe _ _ => true
  | .unpackBe _ => true
  | .illegalOp0x0 => true
  | .illegalOp0x9 => true
  | .illegalOp0xA => true
  | .illegalOp0xB => true
  | .illegalOp0xC => true
  | .illegalOp0xD => true
  | .illegalOp0xE => true
  | .illegalOp0xF => true

/-- A legal request (R200). -/
def Instr.wellFormed (i : Instr) : Bool := i.opcodeAssigned && i.selectAssigned

end Sys2Proof
end

