-- ==== Sys2Proof/Certificates/Slice0/Obligations.lean ====
section
/-! DEFINITION. The statements for the provers. A rule of spec/ that carries a [decision …] or [derived …] mark is the
spec's own choice or inference; a statement that rests on one says so. -/

open Sys2Proof Sys2Proof.Machine

/-! ### The decode operations (40_decode.md) -/

/-- R100 with R24 and R101: for EVERY raw word DEC.VBUS completes, changes nothing but the output ports, and `y` is the
exact product of the whole raw word and VBUS_SCALE = 13743895 / 2^33, rounded once, to nearest, ties to even. The
binary32 product is the spec's decision D27, the rounding its decision D11. -/
def Obligations.DecVbusIsNearestEvenProduct : Prop :=
  ∀ (a : Word) (s : State), ∃ y : F32,
    exec (.decVbus a) s = .next { s with outs := { y := y, q0 := 0, q1 := 0, ill := 0, cause := 0 } } ∧
      NearestEven (a.toNat * 13743895) (2 ^ 33) y

/-- R101: the result lies between +0.0 and 0x42D1B645, is +0.0 for a = 0 alone, is at least 0x3AD1B717 otherwise, both
bounds are reached, and it is never negative, an infinity, a NaN or subnormal. For patterns of sign 0 the order of the
values is the order of the patterns. -/
def Obligations.DecVbusResultsStayInRange : Prop :=
  ∀ (a : Word) (s : State), ∃ t : State, exec (.decVbus a) s = .next t ∧
    F32.sign t.outs.y = false ∧ F32.finite t.outs.y = true ∧ t.outs.y.toNat ≤ 0x42D1B645 ∧
    (t.outs.y = 0 ↔ a = 0) ∧
    (a ≠ 0 → 0x3AD1B717 ≤ t.outs.y.toNat ∧ 0 < F32.expo t.outs.y) ∧
    (a = 1 → t.outs.y = 0x3AD1B717) ∧ (a = 0xFFFF → t.outs.y = 0x42D1B645)

/-- R100, R102 with C1: DEC.VBUS is strictly monotone in the WHOLE raw word, bits 2:0 included: a larger raw word always
decodes to a larger voltage, so words that differ only in their status bits decode to different ones; 0x1000 gives
0x40D1B717. Monotonicity over all pairs is an inference from the scaling of R100; the product is the spec's decision D27,
the rounding its decision D11 (log entries 7, 10). -/
def Obligations.DecVbusIsMonotoneInTheWholeRawWord : Prop :=
  (∀ (a b : Word) (s : State), ∃ t u : State, exec (.decVbus a) s = .next t ∧ exec (.decVbus b) s = .next u ∧
    (a.toNat < b.toNat → t.outs.y.toNat < u.outs.y.toNat)) ∧
  ∀ s : State, ∃ t : State, exec (.decVbus 0x1000) s = .next t ∧ t.outs.y = 0x40D1B717

/-- R105, R106: for EVERY raw word DEC.ISHUNT completes and changes nothing but the output ports; with bit 15 set `y` is
+0.0, with bit 15 clear it is the exact quotient of the raw word by 3970, rounded once, to nearest, ties to even; and
the rule's corner cases and example. That the zero is +0.0 is the spec's decision D12 (log entry 10), the rounding its
decision D11 (log entry 7). -/
def Obligations.DecIshuntIsClampedNearestEvenQuotient : Prop :=
  (∀ (a : Word) (s : State), ∃ y : F32,
    exec (.decIshunt a) s = .next { s with outs := { y := y, q0 := 0, q1 := 0, ill := 0, cause := 0 } } ∧
      (a.getLsbD 15 = true → y = 0x00000000) ∧ (a.getLsbD 15 = false → NearestEven a.toNat 3970 y)) ∧
  ∀ s : State, ∀ p ∈ [(0x0000#16, 0x00000000#32), (0x0F82#16, 0x3F800000#32), (0x7FFF#16, 0x41040EF6#32),
      (0x8000#16, 0x00000000#32), (0xFFFF#16, 0x00000000#32), (0x0001#16, 0x39840FFE#32), (0x0032#16, 0x3C4E58FD#32)],
    ∃ t : State, exec (.decIshunt p.1) s = .next t ∧ t.outs.y = p.2

/-- R107: the result lies between +0.0 and 0x41040EF6, is +0.0 exactly when a = 0 or a[15] = 1, and is never negative,
an infinity, a NaN or subnormal. -/
def Obligations.DecIshuntResultsStayInRange : Prop :=
  ∀ (a : Word) (s : State), ∃ t : State, exec (.decIshunt a) s = .next t ∧
    F32.sign t.outs.y = false ∧ F32.finite t.outs.y = true ∧ t.outs.y.toNat ≤ 0x41040EF6 ∧
    (t.outs.y = 0 ↔ a = 0 ∨ a.getLsbD 15 = true) ∧ (t.outs.y ≠ 0 → 0 < F32.expo t.outs.y)

/-- R13, D11: the rounding every binary32 result goes through is the correct one, for every non-negative rational below
the overflow threshold. That results below the smallest normal number are rounded to subnormals is the model's choice,
PRESUMED (log entry 7); no operation reaches them. -/
def Obligations.RoundingIsToNearestTiesToEven : Prop :=
  ∀ num den : Nat, 0 < den → num < (2 ^ 128 - 2 ^ 103) * den → NearestEven num den (roundF32 false num den)

/-- R13, D11: mulF32 and divF32 of finite operands round the exact result once; a zero divisor and results past the overflow
threshold are the only finite operands left out. That the sign is the product of the signs, a zero's sign among them,
and that small results are rounded to subnormals are the model's choice, PRESUMED (log entry 7); no operation reaches
a negative or subnormal value. -/
def Obligations.MulAndDivRoundTheExactResultOnce : Prop :=
  ∀ x y : F32, x.finite = true → y.finite = true →
    (x.units * y.units < (2 ^ 128 - 2 ^ 103) * 2 ^ 298 →
      (mulF32 x y).sign = (x.sign ^^ y.sign) ∧
        NearestEven (x.units * y.units) (2 ^ 298) (mulF32 x y &&& 0x7FFFFFFF#32)) ∧
    (y.units ≠ 0 → x.units < (2 ^ 128 - 2 ^ 103) * y.units →
      (divF32 x y).sign = (x.sign ^^ y.sign) ∧ NearestEven x.units y.units (divF32 x y &&& 0x7FFFFFFF#32))

/-- R13: toF32 is exact for every n < 2^24. -/
def Obligations.SmallIntegersConvertExactly : Prop :=
  ∀ n : BitVec 32, n.toNat < 2 ^ 24 →
    (toF32 n).sign = false ∧ (toF32 n).finite = true ∧ (toF32 n).units = n.toNat * 2 ^ 149

/-- R24: the two hardwired constants are the literals 0.0016 and 3970.0 rounded to binary32 and have the exact values
13743895 / 2^33 and 3970. -/
def Obligations.ConstantsAreTheRoundedLiterals : Prop :=
  vbusScale = lit32 16 10000 ∧ ishuntDiv = lit32 3970 1 ∧
    vbusScale.units * 2 ^ 33 = 13743895 * 2 ^ 149 ∧ ishuntDiv.units = 3970 * 2 ^ 149

/-! ### The encode operations (41_encode.md) -/

/-- R120, R121: ENC.CONFIG completes for every field values, changes nothing but the output ports, and every bit of `y`
is the one the layout gives; bits 14:13 and 31:16 are 0. The positions are the spec's decision D7. -/
def Obligations.EncConfigPlacesEveryField : Prop :=
  ∀ (mode vshct vbusct avg : BitVec 3) (range rst : BitVec 1) (s : State), ∃ y : BitVec 32,
    exec (.encConfig mode vshct vbusct avg range rst) s =
        .next { s with outs := { y := y, q0 := 0, q1 := 0, ill := 0, cause := 0 } } ∧
      y.extractLsb' 0 3 = mode ∧ y.extractLsb' 3 3 = vshct ∧ y.extractLsb' 6 3 = vbusct ∧ y.extractLsb' 9 3 = avg ∧
      y.extractLsb' 12 1 = range ∧ y.extractLsb' 13 2 = 0 ∧ y.extractLsb' 15 1 = rst ∧ y.extractLsb' 16 16 = 0

/-- R122: the words ENC.CONFIG gives are exactly those with bits 14:13 zero, 2^14 of them; each comes from one choice of
fields, which GETF recovers from it. -/
def Obligations.EncConfigImageIsTheReservedClearWords : Prop :=
  (∀ w : Word, w.extractLsb' 13 2 = 0 ↔ ∃ (mode vshct vbusct avg : BitVec 3) (range rst : BitVec 1),
    (respond (encodeRequest (.encConfig mode vshct vbusct avg range rst))).y = w.setWidth 32) ∧
  Nat.card { w : Word // w.extractLsb' 13 2 = 0 } = 16384 ∧
  ∀ (mode vshct vbusct avg : BitVec 3) (range rst : BitVec 1) (w : Word),
    (respond (encodeRequest (.encConfig mode vshct vbusct avg range rst))).y = w.setWidth 32 →
      getfResult .cfgMode w = mode.setWidth 16 ∧ getfResult .cfgVshct w = vshct.setWidth 16 ∧
      getfResult .cfgVbusct w = vbusct.setWidth 16 ∧ getfResult .cfgAvg w = avg.setWidth 16 ∧
      getfResult .cfgAdcrange w = range.setWidth 16 ∧ getfResult .cfgRst w = rst.setWidth 16

/-- R123, R126: the boot configuration word is 0x0097, the boot calibration word 0x000A, and GETF CAL.VALUE of the
latter is 10, from every state. -/
def Obligations.BootWordsAre0x0097And0x000A : Prop :=
  ∀ s : State,
    exec (.encConfig 7 2 2 0 0 0) s = .next { s with outs := { y := 0x0097, q0 := 0, q1 := 0, ill := 0, cause := 0 } } ∧
    exec (.encCal Config.calBoot) s =
      .next { s with outs := { y := 0x000A, q0 := 0, q1 := 0, ill := 0, cause := 0 } } ∧
    exec (.getf (.named .calValue) 0x000A) s =
      .next { s with outs := { y := 10, q0 := 0, q1 := 0, ill := 0, cause := 0 } }

/-- R125: ENC.CAL is the identity on all 16 bits. That bit 15 passes is the spec's decision D14. -/
def Obligations.EncCalPassesAllSixteenBits : Prop :=
  ∀ (a : Word) (s : State), ∃ y : BitVec 32,
    exec (.encCal a) s = .next { s with outs := { y := y, q0 := 0, q1 := 0, ill := 0, cause := 0 } } ∧
      y.toNat = a.toNat

/-- R73: every word ENC.CONFIG gives may be written to the Configuration register; SETF does not enforce this, it turns
a word that may be written into one that may not. -/
def Obligations.EncConfigKeepsReservedBitsClearSetfDoesNot : Prop :=
  (∀ (mode vshct vbusct avg : BitVec 3) (range rst : BitVec 1) (s : State), ∃ t : State,
    exec (.encConfig mode vshct vbusct avg range rst) s = .next t ∧
      t.outs.y.extractLsb' 13 2 = 0 ∧ writeAllowed .configuration (t.outs.y.setWidth 16) = true) ∧
  ∀ s : State, ∃ (a b : Word) (t : State), writeAllowed .configuration a = true ∧
    exec (.setf (.named .cfgRsvd) a b) s = .next t ∧ writeAllowed .configuration (t.outs.y.setWidth 16) = false

/-! ### The field accessors (42_field.md) -/

/-- R140: GETF of a named field completes for every word, changes nothing but the output ports, and bit i of `y` is bit
LSB + i of the word for i below the width, else 0; a reserved select gets the illegal response with cause ILLEGAL_FSEL,
whose outputs and code are R201's and R202's, the spec's decision D5 (log entry 10); GETF BUS.VBUS is the right shift by 3;
a one-bit field gives 0 or 1; and the rule's examples. -/
def Obligations.GetfReadsTheFieldsBits : Prop :=
  (∀ (f : Field) (a : Word) (s : State), ∃ y : BitVec 32,
    exec (.getf (.named f) a) s = .next { s with outs := { y := y, q0 := 0, q1 := 0, ill := 0, cause := 0 } } ∧
      (∀ i, y.getLsbD i = (decide (i < f.width) && a.getLsbD (f.lsb + i))) ∧
      (f.width = 1 → y = 0 ∨ y = 1) ∧ (f = .busVbus → y.toNat = a.toNat / 8)) ∧
  (∀ (sel : FieldSel) (a : Word) (s : State), sel = .reserved0xE ∨ sel = .reserved0xF →
    exec (.getf sel a) s = .next { s with outs := { y := 0, q0 := 0, q1 := 0, ill := 1, cause := 2 } }) ∧
  ∀ s : State,
    exec (.getf (.named .busVbus) 0x1000) s =
      .next { s with outs := { y := 0x200, q0 := 0, q1 := 0, ill := 0, cause := 0 } } ∧
    exec (.getf (.named .shuntSign) 0x8032) s =
      .next { s with outs := { y := 1, q0 := 0, q1 := 0, ill := 0, cause := 0 } }

/-- R141: SETF of a named field completes for every word and value, changes nothing but the output ports, and bit i of
`y` is bit i − LSB of the value inside the field and bit i of the word outside it, bits 31:16 are 0: that value bits past
the width are ignored is the spec's decision D10. A reserved select gets the illegal response with cause ILLEGAL_FSEL
(R201, R202), the spec's decision D5 (log entry 10). -/
def Obligations.SetfReplacesTheFieldsBits : Prop :=
  (∀ (f : Field) (a b : Word) (s : State), ∃ y : BitVec 32,
    exec (.setf (.named f) a b) s = .next { s with outs := { y := y, q0 := 0, q1 := 0, ill := 0, cause := 0 } } ∧
      ∀ i, y.getLsbD i =
        if f.lsb ≤ i ∧ i < f.lsb + f.width then b.getLsbD (i - f.lsb) else a.getLsbD i) ∧
  ∀ (sel : FieldSel) (a b : Word) (s : State), sel = .reserved0xE ∨ sel = .reserved0xF →
    exec (.setf sel a b) s = .next { s with outs := { y := 0, q0 := 0, q1 := 0, ill := 1, cause := 2 } }

/-- R142, laws 1 to 3: GETF after SETF gives the value cut to the width, SETF of what GETF read changes nothing, and SETF
leaves a field that shares no bit with it alone. -/
def Obligations.AccessorsObeyTheGetSetLaws : Prop :=
  ∀ (f g : Field) (a b : Word),
    getfResult f (setfResult f a b) = b &&& maskOf f.width ∧ setfResult f a (getfResult f a) = a ∧
      (g.fmask &&& f.fmask = 0 → getfResult g (setfResult f a b) = getfResult g a)

/-- R142, law 4: from 0, setting each field of a covered word to what it is in `a`, in any order, gives `a`. -/
def Obligations.FieldsRebuildTheirWordInAnyOrder : Prop :=
  ∀ (r : RegName) (fields : List Field) (a : Word), r = .configuration ∨ r = .busVoltage ∨ r = .calibration →
    fields.Perm r.fields → fields.foldl (fun w g => setfResult g w (getfResult g a)) 0 = a

/-- R142, last sentence: ENC.CONFIG is SETF of each of its fields, starting from 0. -/
def Obligations.EncConfigIsSixSetfs : Prop :=
  ∀ (mode vshct vbusct avg : BitVec 3) (range rst : BitVec 1) (s : State), ∃ t : State,
    exec (.encConfig mode vshct vbusct avg range rst) s = .next t ∧
      t.outs.y.setWidth 16 =
        setfResult .cfgRst (setfResult .cfgAdcrange (setfResult .cfgAvg (setfResult .cfgVbusct (setfResult .cfgVshct
          (setfResult .cfgMode 0 (mode.setWidth 16)) (vshct.setWidth 16)) (vbusct.setWidth 16)) (avg.setWidth 16))
          (range.setWidth 16)) (rst.setWidth 16)

/-- R143: CFG.RST, CAL.RSVD and SHUNT.SIGN give the same result on the same word. That the operand carries no register
type is the spec's decision D4. -/
def Obligations.TopBitFieldsAreInterchangeable : Prop :=
  ∀ (a b : Word) (s : State),
    exec (.getf (.named .cfgRst) a) s = exec (.getf (.named .calRsvd) a) s ∧
    exec (.getf (.named .calRsvd) a) s = exec (.getf (.named .shuntSign) a) s ∧
    exec (.setf (.named .cfgRst) a b) s = exec (.setf (.named .calRsvd) a b) s ∧
    exec (.setf (.named .calRsvd) a b) s = exec (.setf (.named .shuntSign) a b) s

/-- R70: every row of the field map: register word, select code, low bit, width and mask. The codes are the spec's
decision D4, the positions its decisions D7 and D8. -/
def Obligations.FieldMapIsTheSpecsTable : Prop :=
  Field.all.map (fun f => (f.register, f.code, f.lsb, f.width, f.fmask)) =
    [(.configuration, 0x0, 0, 3, 0x0007), (.configuration, 0x1, 3, 3, 0x0038), (.configuration, 0x2, 6, 3, 0x01C0),
      (.configuration, 0x3, 9, 3, 0x0E00), (.configuration, 0x4, 12, 1, 0x1000), (.configuration, 0x5, 13, 2, 0x6000),
      (.configuration, 0x6, 15, 1, 0x8000), (.busVoltage, 0x7, 0, 1, 0x0001), (.busVoltage, 0x8, 1, 1, 0x0002),
      (.busVoltage, 0x9, 2, 1, 0x0004), (.busVoltage, 0xA, 3, 13, 0xFFF8), (.calibration, 0xB, 0, 15, 0x7FFF),
      (.calibration, 0xC, 15, 1, 0x8000), (.shuntVoltage, 0xD, 15, 1, 0x8000)]

/-- R71: in the three covered words every bit lies in exactly one field; the shunt word has the one field SHUNT.SIGN;
the current and power words have none (R77). -/
def Obligations.FieldsPartitionTheirWords : Prop :=
  (∀ r ∈ [RegName.configuration, .busVoltage, .calibration], ∀ i : Fin 16,
    (r.fields.filter (fun f => f.fmask.getLsbD i)).length = 1) ∧
  RegName.fields .shuntVoltage = [.shuntSign] ∧ RegName.fields .current = [] ∧ RegName.fields .power = []

/-! ### The wire byte operations (43_bytes.md) -/

/-- R160: PACK.BE completes for every two bytes, changes nothing but the output ports, and `y` is (d0 << 8) | d1, not
sign-extended; and the rule's corner case and example. -/
def Obligations.PackBeComposesHighByteFirst : Prop :=
  (∀ (d0 d1 : Byte) (s : State), ∃ y : BitVec 32,
    exec (.packBe d0 d1) s = .next { s with outs := { y := y, q0 := 0, q1 := 0, ill := 0, cause := 0 } } ∧
      y.toNat = d0.toNat * 256 + d1.toNat) ∧
  ∀ s : State,
    exec (.packBe 0x00 0x00) s = .next { s with outs := { y := 0, q0 := 0, q1 := 0, ill := 0, cause := 0 } } ∧
    exec (.packBe 0xFF 0x00) s = .next { s with outs := { y := 0xFF00, q0 := 0, q1 := 0, ill := 0, cause := 0 } } ∧
    exec (.packBe 0x10 0x00) s = .next { s with outs := { y := 0x1000, q0 := 0, q1 := 0, ill := 0, cause := 0 } }

/-- R162: UNPACK.BE completes for every word, changes nothing but the output ports, `q0` is the high byte, `q1` the low
byte and `y` is 0. -/
def Obligations.UnpackBeSplitsHighByteFirst : Prop :=
  ∀ (a : Word) (s : State), ∃ q0 q1 : Byte,
    exec (.unpackBe a) s = .next { s with outs := { y := 0, q0 := q0, q1 := q1, ill := 0, cause := 0 } } ∧
      q0.toNat = a.toNat / 256 ∧ q1.toNat = a.toNat % 256

/-- R163: PACK.BE and UNPACK.BE undo each other, both ways round. -/
def Obligations.PackBeAndUnpackBeAreInverse : Prop :=
  (∀ (w : Word) (s : State), ∃ t u : State, exec (.unpackBe w) s = .next t ∧
    exec (.packBe t.outs.q0 t.outs.q1) t = .next u ∧ u.outs.y = w.setWidth 32) ∧
  ∀ (d0 d1 : Byte) (s : State), ∃ t u : State, exec (.packBe d0 d1) s = .next t ∧
    exec (.unpackBe (t.outs.y.setWidth 16)) t = .next u ∧ u.outs.q0 = d0 ∧ u.outs.q1 = d1

/-- R43, R164: on the wire a register write is the command byte, then word[15:8], then word[7:0]; a read begins with the
command byte and its data bytes, exactly two, compose as (byte0 << 8) | byte1; these are the bytes and the word UNPACK.BE and
PACK.BE give. -/
def Obligations.WireTransactionsAreBigEndian : Prop :=
  (∀ bytes : List Byte, bytes.length ≠ 2 → rawWord bytes = none) ∧
  ∀ (cmd : RegCmd) (r : RegName) (w : Word) (b0 b1 : Byte) (s : State),
    (∃ t : State, exec (.unpackBe w) s = .next t ∧ writeBytes cmd r w = [cmd r, t.outs.q0, t.outs.q1] ∧
      t.outs.q0.toNat = w.toNat / 256 ∧ t.outs.q1.toNat = w.toNat % 256) ∧
    readCommand cmd r = [cmd r] ∧
    ∃ (t : State) (v : Word), exec (.packBe b0 b1) s = .next t ∧ rawWord [b0, b1] = some v ∧
      t.outs.y = v.setWidth 32 ∧ v.toNat = b0.toNat * 256 + b1.toNat

/-- R9, R164: whatever the command bytes, as long as they are injective, the bytes of a register write name the register
and the word. -/
def Obligations.WriteBytesNameRegisterAndWord : Prop :=
  ∀ cmd : RegCmd, Function.Injective cmd → ∀ (r r' : RegName) (w w' : Word),
    writeBytes cmd r w = writeBytes cmd r' w' → r = r' ∧ w = w'

/-- R245: the initialisation sequence writes calibration, then configuration, then reads all six registers once, and
its two writes are sent as 0x00, 0x0A and 0x00, 0x97. -/
def Obligations.InitialisationWritesCalibrationFirst : Prop :=
  initSequence = [.write .calibration (.encCal 10), .write .configuration (.encConfig 7 2 2 0 0 0), .readAllSix] ∧
    ∀ cmd : RegCmd, initWrites cmd = [[cmd .calibration, 0x00, 0x0A], [cmd .configuration, 0x00, 0x97]]

/-! ### Illegal requests (60_exceptions.md) -/

/-- R201, R202: each of the eight unassigned opcodes completes with the illegal response, cause ILLEGAL_OP, and changes
nothing but the output ports. The illegal response is the spec's decision D5. -/
def Obligations.UnassignedOpcodesAnswerIllegalOp : Prop :=
  ∀ i ∈ [Instr.illegalOp0x0, .illegalOp0x9, .illegalOp0xA, .illegalOp0xB, .illegalOp0xC, .illegalOp0xD, .illegalOp0xE,
      .illegalOp0xF], ∀ s : State,
    exec i s = .next { s with outs := { y := 0, q0 := 0, q1 := 0, ill := 1, cause := 1 } }

/-- R36, R200 to R203: for every request, an unassigned opcode is cause 1 whatever the field select, else a reserved
field select of GETF or SETF is cause 2, else `ill` and `cause` are 0; the other outputs of an illegal response are 0.
The codes and the priority are the spec's decision D5. -/
def Obligations.OpcodeIsCheckedBeforeFieldSelect : Prop :=
  ∀ (r : Request) (s : State), ∃ t : State, exec (decodeRequest r) s = .next t ∧
    (t.outs.ill, t.outs.cause) =
      (if r.op = 0 ∨ 9 ≤ r.op.toNat then (1, 1)
        else if (r.op = 5 ∨ r.op = 6) ∧ 14 ≤ r.fsel.toNat then (1, 2)
        else (0, 0)) ∧
    (t.outs.ill = 1 → t.outs.y = 0 ∧ t.outs.q0 = 0 ∧ t.outs.q1 = 0)

/-- R200, R201: `ill` is 0 exactly for the well-formed operations. That legal requests have `ill` = 0 is R200; that all
others have `ill` = 1 is R201, the spec's decision D5. "Well-formed" as the name of the legal requests is the model's
DESIGN CHOICE (log entry 12). -/
def Obligations.IllIsRaisedExactlyByIllFormedOperations : Prop :=
  ∀ (i : Instr) (s : State), ∃ t : State, exec i s = .next t ∧ (t.outs.ill = 0 ↔ i.wellFormed = true)

/-- R204: the next request is served as if an illegal one, or any one, had not happened before it: the same outputs,
ports and remaining requests as without it, and both responses are collected. The spec's decision D20. -/
def Obligations.NextRequestIsServedAsIfNothingHappened : Prop :=
  ∀ (s : State) (r₁ r₂ : Request) (rest : List Request), ∃ t u v : State,
    step { s with pending := r₁ :: r₂ :: rest } = .next t ∧ step t = .next u ∧
    step { s with pending := r₂ :: rest } = .next v ∧
    u.outs = v.outs ∧ u.ports = v.ports ∧ u.pending = v.pending ∧
    u.served = u.outs :: t.outs :: s.served ∧ v.served = v.outs :: s.served

/-! ### The whole machine (10_state.md, 20_memory.md) -/

/-- R47, R20: every operation has one response, the same from every state, and changes nothing but the output ports. -/
def Obligations.OperationsOnlyDriveTheOutputs : Prop :=
  ∀ i : Instr, ∃ r : Response, ∀ s : State, exec i s = .next { s with outs := r }

/-- R27, R26: only UNPACK.BE drives `q0` and `q1`, and it leaves `y` 0; every result but a decoded physical value is a
word zero-extended into `y`. Undriven outputs being 0 is the spec's decision D6, the zero extension its decision D25. -/
def Obligations.UndrivenOutputsAreZero : Prop :=
  ∀ (i : Instr) (s : State), ∃ t : State, exec i s = .next t ∧
    (i.opcode ≠ 0x8 → t.outs.q0 = 0 ∧ t.outs.q1 = 0) ∧ (i.opcode = 0x8 → t.outs.y = 0) ∧
    (i.opcode ≠ 0x1 → i.opcode ≠ 0x2 → t.outs.y.extractLsb' 16 16 = 0)

/-- R25 with R61: two requests that agree on the opcode and on the ports that opcode reads are answered alike from every
state. The spec's decision D26. -/
def Obligations.ResponseDependsOnTheReadPortsAlone : Prop :=
  ∀ r r' : Request, r.op = r'.op →
    (r.op ∈ [0x1#4, 0x2#4, 0x4#4, 0x5#4, 0x6#4, 0x8#4] → r.a = r'.a) →
    (r.op ∈ [0x5#4, 0x6#4] → r.fsel = r'.fsel) →
    (r.op = 0x6 → r.b = r'.b) →
    (r.op = 0x7 → r.d0 = r'.d0 ∧ r.d1 = r'.d1) →
    (r.op = 0x3 → r.cMode = r'.cMode ∧ r.cVshct = r'.cVshct ∧ r.cVbusct = r'.cVbusct ∧ r.cAvg = r'.cAvg ∧
      r.cRange = r'.cRange ∧ r.cRst = r'.cRst) →
    ∀ s : State, exec (decodeRequest r) s = exec (decodeRequest r') s

/-- R50: a step takes the oldest issued request and runs exactly the operation its image decodes to, from a state whose
ports carry it, then the response is collected. The model's DESIGN CHOICES: with no request issued it runs the operation
on the ports and collects nothing (log entry 4); withFetchWord puts the image at the head, so that it is the one taken
next (log entry 3); decodeTableWord numbers a word's bits as the image does and decodes it (log entry 5). -/
def Obligations.StepRunsTheDecodedRequest : Prop :=
  (∀ (s t : State) (img : Image) (rest : List Request),
    exec (decodeImage img) { s with ports := .ofImage img, pending := rest } = .next t →
      step { s with pending := .ofImage img :: rest } = .next { t with served := t.outs :: t.served }) ∧
  (∀ s : State, s.pending = [] → step s = exec (decodeRequest s.ports) s) ∧
  ∀ (s : State) (w : Nat), w < 2 ^ 72 → decodeTableWord 72 w = some (decodeImage (BitVec.ofNat 72 w)) ∧
    s.withFetchWord 72 w = { s with pending := .ofImage (BitVec.ofNat 72 w) :: s.pending }

/-- R35, R46: after every step the outputs are the response to the present request alone. -/
def Obligations.StepLeavesTheOutputsSettled : Prop :=
  ∀ s t : State, step s = .next t → t.Settled

/-- R35 at reset: the outputs are the response to the all-zero request. That the ports carry that request is the model's
DESIGN CHOICE (log entry 2). -/
def Obligations.ResetOutputsAreSettled : Prop := State.reset.Settled

/-- R50, R29, R46: the issued requests are served one at a time, in the order issued, each with the response it has by
itself, and no step stops the machine. -/
def Obligations.RunServesRequestsInIssueOrder : Prop :=
  ∀ s : State, ∃ t : State, core.run s.pending.length s = .next t ∧ t.pending = [] ∧
    t.served = (s.pending.map respond).reverse ++ s.served ∧ (s.Settled → t.Settled)

/-- R20: the response to a request alone is what the machine answers it with from every state. -/
def Obligations.RespondIsTheAnswerFromEveryState : Prop :=
  ∀ (r : Request) (s : State), exec (decodeRequest r) s = .next { s with outs := respond r }

/-- R207: after any number of steps a faulted program is still faulted. The fault is the spec's decision D5. That it is
read off the collected responses is log entry 6 (DEDUCED); that these are one requester's, running one program, is the
model's DESIGN CHOICE (log entry 16). -/
def Obligations.ProgramFaultIsNeverCleared : Prop :=
  ∀ (k : Nat) (s : State), ∃ t : State, core.run k s = .next t ∧ (s.programFaulted = true → t.programFaulted = true)

/-- R207, R200: serving all issued requests faults the program exactly when it was faulted or one of them is ill-formed:
a program of legal requests is never faulted, and no illegal request goes unseen. The fault is the spec's decision D5.
That it is read off the collected responses is log entry 6 (DEDUCED). That every issued request is of one requester and
one program, so that any ill-formed one faults it, is the model's DESIGN CHOICE (log entry 16): R212 allows several
requesters, and the program of another is another State. The word well-formed is the model's too (log entry 12). -/
def Obligations.ProgramIsFaultedExactlyByIllFormedRequests : Prop :=
  ∀ s : State, ∃ t : State, core.run s.pending.length s = .next t ∧
    (t.programFaulted = true ↔
      s.programFaulted = true ∨ ∃ r ∈ s.pending, (decodeRequest r).wellFormed = false)

/-- R207: a faulted program is never final, whatever it issues after: no number of steps makes the machine's state
final, and no further lines make its run end otherwise than faulted; a run that does end final has a state with nothing
pending and no fault; a line whose request is ill-formed faults the program, whatever lines follow; and a program of
well-formed requests, issued after well-formed ones, ends final. The fault is the spec's decision D5, and
that it is read off the collected responses is log entry 6 (DEDUCED); that the lists are one requester's, running one
program, is the model's DESIGN CHOICE (log entry 16), as are the word well-formed (log entry 12) and
that a line which names no request ends the run, faulted where it was so already (log entry 17). -/
def Obligations.FaultedProgramsAreNeverFinal : Prop :=
  (∀ (k : Nat) (s : State), s.programFaulted = true →
    ∃ t : State, core.run k s = .next t ∧ t.programFinal = false) ∧
  (∀ (items : List HostItem) (env : Env) (s : State), s.programFaulted = true →
    ∃ t : State, runProgram items env s = .faulted t ∧ t.programFaulted = true) ∧
  (∀ (items : List HostItem) (env env' : Env) (s t : State), runProgram items env s = .final env' t →
    s.pending = [] → t.programFinal = true) ∧
  (∀ (r : Request) (items : List HostItem) (env : Env) (s : State), (decodeRequest r).wellFormed = false →
    ∃ t : State, runProgram (.request r :: items) env s = .faulted t) ∧
  ∀ (rs : List Request) (env : Env) (s : State), s.programFaulted = false →
    (∀ r ∈ s.pending, (decodeRequest r).wellFormed = true) → (∀ r ∈ rs, (decodeRequest r).wellFormed = true) →
    ∃ t : State, runProgram (rs.map .request) env s = .final env t

/-! ### Encoding (30_encoding.md) -/

/-- Every operation, with every operand, is decoded from its own image and from its nine bytes. The image is the spec's
decision D2, the byte form the model's DESIGN CHOICE (log entry 5). -/
def Obligations.DecodeUndoesEncode : Prop :=
  ∀ i : Instr, decodeImage (encode i) = i ∧ decode (bytesOfImage (encode i)) = .ok i

/-- R61: encoding what an image decodes to gives back every bit the operation reads and 0 elsewhere: decoding drops only
what the operation does not read. -/
def Obligations.EncodeUndoesDecodeOnTheReadBits : Prop :=
  ∀ img : Image, encode (decodeImage img) = img &&& (decodeImage img).readMask

/-- R62: every image belongs to exactly one row of the opcode table, the row of the operation it decodes to. The opcode
numbers are the spec's decision D3. -/
def Obligations.EveryImageBelongsToItsOperationsRow : Prop :=
  ∀ img : Image, (opcodeTable.filter (fun row => row.covers img)).map OpcodeRow.mnemonic = [(decodeImage img).mnemonic]

/-- R60, R63: reading an image's ports and writing them back loses image bits 14:13 and nothing else, and every port
record is read back from its image. -/
def Obligations.ImageAndPortsAgreeButForTwoIgnoredBits : Prop :=
  (∀ img : Image, (Request.ofImage img).toImage = img &&& ~~~0x6000#72) ∧
    ∀ r : Request, Request.ofImage r.toImage = r

/-- R60: a byte string is a request exactly when it is nine bytes long; any other is rejected by its length. The byte
form is the model's DESIGN CHOICE (log entry 5). -/
def Obligations.OnlyNineByteStringsDecode : Prop :=
  (∀ bs : List Byte, bs.length ≠ 9 → decode bs = .error (.wrongLength bs.length)) ∧
    ∀ bs : List Byte, bs.length = 9 → ∃ img : Image, bytesOfImage img = bs ∧ decode bs = .ok (decodeImage img)

/-- R60, R62 on images of 95_test_vectors.md section 2, one or more of each family. -/
def Obligations.ListedImagesDecodeToTheirOperations : Prop :=
  decodeImage 0x101000000000000000#72 = .decVbus 0x1000 ∧
  decodeImage 0x1FFFFFFFFFFFFFFFFF#72 = .decVbus 0xFFFF ∧
  decodeImage 0x200032000000000000#72 = .decIshunt 0x0032 ∧
  decodeImage 0x300000000000001725#72 = .encConfig 5 4 4 3 1 0 ∧
  decodeImage 0x300000000000007FFF#72 = .encConfig 7 7 7 7 1 0 ∧
  decodeImage 0x40800A000000000000#72 = .encCal 0x800A ∧
  decodeImage 0x5A1000000000000000#72 = .getf (.named .busVbus) 0x1000 ∧
  decodeImage 0x5E1234000000000000#72 = .getf .reserved0xE 0x1234 ∧
  decodeImage 0x6A0007020000000000#72 = .setf (.named .busVbus) 0x0007 0x0200 ∧
  decodeImage 0x700000000080320000#72 = .packBe 0x80 0x32 ∧
  decodeImage 0x800097000000000000#72 = .unpackBe 0x0097 ∧
  decodeImage 0xFE1000000000000000#72 = .illegalOp0xF

/-! ### Notation of the host (30_encoding.md R79, R80) -/

/-- R79, R22: a line that assembles names a legal request, and every port its operation does not read is 0. The syntax
is the spec's decision D19; which lines are errors beyond R79 is log entry 11, the word well-formed log entry 12 (both
DESIGN CHOICE). -/
def Obligations.AssembledLinesAreLegalRequests : Prop :=
  ∀ (env : Env) (l : AsmLine) (r : Request), assemble env l = .ok r →
    (decodeRequest r).wellFormed = true ∧ encodeRequest (decodeRequest r) = r

/-- R80: each pseudo-instruction assembles, for every operand, to the request of the line it stands for. The spec's
decision D19. -/
def Obligations.PseudoInstructionsExpandToOneRequest : Prop :=
  ∀ (env : Env) (x : Arg) (result : Option (String × OutPort)),
    assemble env ⟨.pseudo .calBoot, none, [], result⟩ = .ok (encodeRequest (.encCal 0x000A)) ∧
    assemble env ⟨.pseudo .cfgBoot, none, [], result⟩ = .ok (encodeRequest (.encConfig 7 2 2 0 0 0)) ∧
    assemble env ⟨.pseudo .vbusMag, none, [(.a, x)], result⟩ =
      assemble env ⟨.core .getf, some .busVbus, [(.a, x)], result⟩ ∧
    assemble env ⟨.pseudo .shuntNeg, none, [(.a, x)], result⟩ =
      assemble env ⟨.core .getf, some .shuntSign, [(.a, x)], result⟩ ∧
    assemble env ⟨.pseudo .calGet, none, [(.a, x)], result⟩ =
      assemble env ⟨.core .getf, some .calValue, [(.a, x)], result⟩
end

