-- ==== Sys2Proof/Laws/Decode.lean ====
section
/-! SUPPORT. Field selects and operations survive their codes (30_encoding.md R62, R70). -/

namespace Sys2Proof

/-- Reading the code of a field select gives it back (R70). -/
@[simp] theorem FieldSel.ofCode_code (sel : FieldSel) : FieldSel.ofCode sel.code = sel := by
  rcases sel with f | _ | _
  · cases f <;> rfl
  · rfl
  · rfl

/-- Every four-bit code is the code of the field select it is read as (R70). -/
@[simp] theorem FieldSel.code_ofCode : ∀ c : BitVec 4, (FieldSel.ofCode c).code = c := by decide

/-- Reading the ports an operation is asked for with gives the operation back (R61, R62). -/
@[simp] theorem decodeRequest_encodeRequest (i : Instr) : decodeRequest (encodeRequest i) = i := by
  cases i <;> simp [encodeRequest, decodeRequest, Instr.opcode, Request.blank]

/-- The operation of a request has the opcode on its port (R62). -/
theorem opcode_decodeRequest (r : Request) : (decodeRequest r).opcode = r.op := by
  have h := r.op.isLt
  apply BitVec.eq_of_toNat_eq
  unfold decodeRequest
  split <;> simp_all [Instr.opcode]
  omega

end Sys2Proof
end

