-- ==== Sys2Proof/Laws/Float32.lean ====
section
/-! SUPPORT. Rounding to the nearest whole number, ties to even, and the fields of a rounded pattern (00_scope.md R13). -/

namespace Sys2Proof

/-- The remainder splits the numerator. -/
theorem div_mul_add_mod (n d : Nat) : n / d * d + n % d = n := Nat.div_add_mod' n d

/-- No whole number of grid steps lies nearer to `n` than the rounded one. -/
theorem roundDiv_nearest (n d m : Nat) (hd : 0 < d) :
    distance (roundDiv n d * d) n ≤ distance (m * d) n := by
  have hs := div_mul_add_mod n d
  have hr := Nat.mod_lt n hd
  set q := n / d with hq
  have low : m ≤ q → m * d ≤ q * d := fun h => Nat.mul_le_mul_right d h
  have high : q + 1 ≤ m → q * d + d ≤ m * d := fun h => by
    simpa [Nat.add_mul] using Nat.mul_le_mul_right d h
  have split : m ≤ q ∨ q + 1 ≤ m := by omega
  unfold roundDiv distance
  rw [← hq]
  have up : (q + 1) * d = q * d + d := by ring
  have even : (q + q % 2) * d = q * d ∨ (q + q % 2) * d = q * d + d := by
    rcases Nat.mod_two_eq_zero_or_one q with h | h
    · left; rw [h]; ring
    · right; rw [h]; ring
  split_ifs with h1 h2
  · rcases split with h | h
    · have := low h; omega
    · have := high h; omega
  · rw [up]
    rcases split with h | h
    · have := low h; omega
    · have := high h; omega
  · rcases even with e | e <;> rw [e] <;> rcases split with h | h
    · have := low h; omega
    · have := high h; omega
    · have := low h; omega
    · have := high h; omega

/-- An exact quotient is rounded to itself. -/
theorem roundDiv_exact (m d : Nat) (hd : 0 < d) : roundDiv (m * d) d = m := by
  simp [roundDiv, Nat.mul_mod_left, Nat.mul_div_cancel _ hd, hd]

/-- The sign of a rounded value (R13). -/
@[simp] theorem roundF32_sign (sign : Bool) (num den : Nat) : (roundF32 sign num den).sign = sign := by
  unfold roundF32 F32.sign
  rw [BitVec.getLsbD_append]
  simp

/-- A rounded magnitude is a finite pattern or the infinity's. -/
theorem roundUnits_le (n d : Nat) : roundUnits n d ≤ 0x7F800000 := by
  unfold roundUnits; omega

/-- A rounded magnitude fits bits 30:0. -/
theorem roundUnits_lt (n d : Nat) : roundUnits n d < 2 ^ 31 := by
  have h := roundUnits_le n d; omega

/-- A pattern of sign 0 is its bits 30:0. -/
theorem ofNat31_toNat (u : Nat) (h : u < 2 ^ 31) : (BitVec.ofBool false ++ BitVec.ofNat 31 u).toNat = u := by
  rw [BitVec.toNat_append, BitVec.toNat_ofNat, Nat.mod_eq_of_lt h]
  simp

/-- Bits 30:0 of a rounded value (R13). -/
theorem roundF32_toNat (num den : Nat) : (roundF32 false num den).toNat = roundUnits (num * 2 ^ 149) den :=
  ofNat31_toNat _ (roundUnits_lt _ _)

end Sys2Proof
end

