-- ==== Sys2Proof/Laws/HostProgram.lean ====
section
/-! SUPPORT. How the run of a host's program ends, line by line (60_exceptions.md R207). -/

namespace Sys2Proof.Machine

/-- A faulted state makes every end a fault. -/
theorem verdict_faulted {s : State} (h : s.programFaulted = true) (e : ProgramEnd) : verdict s e = .faulted s :=
  if_pos h

/-- A state that is not faulted leaves the end as it is. -/
theorem verdict_clean {s : State} (h : s.programFaulted = false) (e : ProgramEnd) : verdict s e = e :=
  if_neg (by simp [h])

/-- Everything a verdict can be. -/
theorem verdict_cases (s : State) (e : ProgramEnd) :
    (s.programFaulted = true ∧ verdict s e = .faulted s) ∨ (s.programFaulted = false ∧ verdict s e = e) := by
  cases h : s.programFaulted with
  | true => exact .inl ⟨rfl, verdict_faulted h e⟩
  | false => exact .inr ⟨rfl, verdict_clean h e⟩

@[simp] theorem runProgram_nil (env : Env) (s : State) : runProgram [] env s = verdict s (.final env s) := rfl

/-- A line that runs hands its names and its state to the lines after it. -/
theorem runProgram_ok {item : HostItem} {env env' : Env} {s t : State} (h : runItem env item s = .ok (env', t))
    (items : List HostItem) : runProgram (item :: items) env s = runProgram items env' t := by
  simp [runProgram, h]

/-- A line that cannot be run ends the program (log entry 17). -/
theorem runProgram_error {item : HostItem} {env : Env} {s : State} {e : HostError} (h : runItem env item s = .error e)
    (items : List HostItem) : runProgram (item :: items) env s = verdict s (.broken e) := by
  simp [runProgram, h]

/-- If a line runs, it named a request, and the state is the one that serving all issued requests and then this one
gives. -/
theorem runItem_ok {item : HostItem} {env env' : Env} {s t : State} (h : runItem env item s = .ok (env', t)) :
    ∃ r result, item.request? env = .ok (r, result) ∧
      Host.Core.run Sys2Proof.core (s.pending.length + 1) (s.issue r) = .next t ∧
      env' = bindResult env t.outs result := by
  unfold runItem at h
  split at h
  · cases h
  · rename_i r result hr
    split at h
    · rename_i t' ht
      cases h
      exact ⟨r, result, hr, ht, rfl⟩
    · cases h
    · cases h

/-- A final program is not a faulted one (R207). -/
theorem programFinal_of_faulted {s : State} (h : s.programFaulted = true) : s.programFinal = false := by
  simp [State.programFinal, State.safe, h]

end Sys2Proof.Machine
end

