-- ==== Sys2Proof/Laws/Operands.lean ====
section
/-! SUPPORT. The operand forms bit by bit (30_encoding.md R70, R78; 20_memory.md R43). -/

namespace Sys2Proof

/-- A field lies inside the word (R70). -/
theorem Field.lsb_add_width_le (f : Field) : f.lsb + f.width ≤ 16 := by cases f <;> decide

/-- No field is empty (R70). -/
theorem Field.width_pos (f : Field) : 0 < f.width := by cases f <;> decide

/-- `MASK(w)` has its low w bits set (R12). -/
@[simp] theorem getLsbD_maskOf (w i : Nat) : (maskOf w).getLsbD i = (decide (i < 16) && decide (i < w)) := by
  simp [maskOf, BitVec.getLsbD_ofNat, Nat.testBit_two_pow_sub_one]

/-- `FMASK(f)` has the field's bits set (R70). -/
theorem getLsbD_fmask (f : Field) (i : Nat) : f.fmask.getLsbD i = decide (f.lsb ≤ i ∧ i < f.lsb + f.width) := by
  have h := f.lsb_add_width_le
  simp only [Field.fmask, BitVec.getLsbD_shiftLeft, getLsbD_maskOf]
  by_cases h1 : f.lsb ≤ i <;> by_cases h2 : i < f.lsb + f.width <;> simp [h1, h2] <;> omega

/-- Bit i of a field's value is bit LSB + i of the word, below the width (R78). -/
theorem getLsbD_getField (f : Field) (a : Word) (i : Nat) :
    (getField f a).getLsbD i = (decide (i < f.width) && a.getLsbD (f.lsb + i)) := by
  have h := f.lsb_add_width_le
  simp only [getField, BitVec.getLsbD_and, BitVec.getLsbD_ushiftRight, getLsbD_maskOf]
  by_cases h2 : i < f.width
  · have : i < 16 := by omega
    simp [h2, this]
  · simp [h2]

/-- Bit i of a word with a field replaced is the new value's inside the field and the old word's outside it (R78). -/
theorem getLsbD_setField (f : Field) (a b : Word) (i : Nat) :
    (setField f a b).getLsbD i =
      if f.lsb ≤ i ∧ i < f.lsb + f.width then b.getLsbD (i - f.lsb) else a.getLsbD i := by
  have h := f.lsb_add_width_le
  simp only [setField, BitVec.getLsbD_or, BitVec.getLsbD_and, BitVec.getLsbD_not, BitVec.getLsbD_shiftLeft,
    getLsbD_fmask]
  by_cases h1 : f.lsb ≤ i ∧ i < f.lsb + f.width
  · have : i < 16 := by omega
    have : ¬ i < f.lsb := by omega
    simp [*]
  · by_cases h2 : i < 16
    · simp [h1, h2]
    · simp [h1, h2, BitVec.getLsbD_of_ge a i (by omega)]

/-- The word of two wire bytes as a number (R43). -/
theorem composeBytes_toNat (d0 d1 : Byte) : (composeBytes d0 d1).toNat = d0.toNat * 256 + d1.toNat := by
  have h := d1.isLt
  simp only [composeBytes, BitVec.toNat_append]
  rw [← Nat.shiftLeft_add_eq_or_of_lt h, Nat.shiftLeft_eq]

/-- The high byte as a number (R43). -/
theorem highByte_toNat (w : Word) : (highByte w).toNat = w.toNat / 256 := by
  have h := w.isLt
  simp only [highByte, BitVec.extractLsb'_toNat, Nat.shiftRight_eq_div_pow]
  omega

/-- The low byte as a number (R43). -/
theorem lowByte_toNat (w : Word) : (lowByte w).toNat = w.toNat % 256 := by
  simp [lowByte, BitVec.extractLsb'_toNat]

end Sys2Proof
end

