-- ==== Sys2Proof/Laws/State.lean ====
section
/-! SUPPORT. What each update of the state leaves in each field. -/

namespace Sys2Proof.Machine

variable (s : State) (r : Request) (rest : List Request) (rsp : Response) (nbits w : Nat)

/-! `take` puts a request on the ports (20_memory.md R50). -/
@[simp] theorem State.take_ports : (s.take r rest).ports = r := rfl
@[simp] theorem State.take_outs : (s.take r rest).outs = s.outs := rfl
@[simp] theorem State.take_pending : (s.take r rest).pending = rest := rfl
@[simp] theorem State.take_served : (s.take r rest).served = s.served := rfl

/-! `issue` adds a request at the end. -/
@[simp] theorem State.issue_ports : (s.issue r).ports = s.ports := rfl
@[simp] theorem State.issue_outs : (s.issue r).outs = s.outs := rfl
@[simp] theorem State.issue_pending : (s.issue r).pending = s.pending ++ [r] := rfl
@[simp] theorem State.issue_served : (s.issue r).served = s.served := rfl

/-! `collect` keeps the response on the output ports. -/
@[simp] theorem State.collect_ports : s.collect.ports = s.ports := rfl
@[simp] theorem State.collect_outs : s.collect.outs = s.outs := rfl
@[simp] theorem State.collect_pending : s.collect.pending = s.pending := rfl
@[simp] theorem State.collect_served : s.collect.served = s.outs :: s.served := rfl

/-! `withFetchWord` puts a request at the head. -/
@[simp] theorem State.withFetchWord_ports : (s.withFetchWord nbits w).ports = s.ports := rfl
@[simp] theorem State.withFetchWord_outs : (s.withFetchWord nbits w).outs = s.outs := rfl
@[simp] theorem State.withFetchWord_pending :
    (s.withFetchWord nbits w).pending = Request.ofImage (imageOfTableWord nbits w) :: s.pending := rfl
@[simp] theorem State.withFetchWord_served : (s.withFetchWord nbits w).served = s.served := rfl

end Sys2Proof.Machine
end

