-- ==== Sys2Proof/Laws/Ops.lean ====
section
/-! SUPPORT. What the shared operations do, and the one effect each operation has. Later proofs cite these and unfold
nothing. -/

namespace Sys2Proof.Machine

/-! ### Responses -/

@[simp] theorem Response.legal_eq (y : BitVec 32) (q0 q1 : Byte) :
    Response.legal y q0 q1 = { y, q0, q1, ill := 0, cause := 0 } := rfl

@[simp] theorem Response.ofY_eq (y : BitVec 32) :
    Response.ofY y = { y, q0 := 0, q1 := 0, ill := 0, cause := 0 } := rfl

@[simp] theorem Response.ofWord_eq (w : Word) :
    Response.ofWord w = { y := w.setWidth 32, q0 := 0, q1 := 0, ill := 0, cause := 0 } := rfl

@[simp] theorem Response.ofF32_eq (x : F32) :
    Response.ofF32 x = { y := x, q0 := 0, q1 := 0, ill := 0, cause := 0 } := rfl

@[simp] theorem Response.ofBytes_eq (q0 q1 : Byte) :
    Response.ofBytes q0 q1 = { y := 0, q0, q1, ill := 0, cause := 0 } := rfl

@[simp] theorem Response.illegal_eq (c : IllegalCause) :
    Response.illegal c = { y := 0, q0 := 0, q1 := 0, ill := 1, cause := causeCode c } := rfl

@[simp] theorem causeCode_illegalOp : causeCode .illegalOp = 1 := rfl

@[simp] theorem causeCode_illegalFsel : causeCode .illegalFsel = 2 := rfl

/-! ### Effects -/

/-- Driving the outputs is a next state that differs in the outputs alone. -/
@[simp] theorem State.answer_eq (s : State) (r : Response) : s.answer r = .next { s with outs := r } := rfl

/-- If driving the outputs answers a next state, it is this one. -/
theorem State.answer_next {s t : State} {r : Response} (h : s.answer r = .next t) : t = { s with outs := r } := by
  cases h; rfl

/-- An illegal request is answered and changes nothing else (60_exceptions.md R201). -/
@[simp] theorem raiseIllegal_eq (c : IllegalCause) (s : State) : raiseIllegal c s = s.answer (.illegal c) := rfl

@[simp] theorem collectNext_next (t : State) : collectNext (.next t) = .next t.collect := rfl

/-- If collecting answers a next state, the operation did, and the response was added. -/
theorem collectNext_inv {o : Host.Outcome State Fault Refusal} {u : State} (h : collectNext o = .next u) :
    ∃ t, o = .next t ∧ u = t.collect := by
  cases o with
  | next t => cases h; exact ⟨t, rfl, rfl⟩
  | fault f => cases h
  | refused r => cases h

/-! ### Operations -/

@[simp] theorem exec_decVbus (a : Word) (s : State) :
    exec (.decVbus a) s = s.answer (.ofF32 (mulF32 (toF32 (a.setWidth 32)) vbusScale)) := rfl

@[simp] theorem exec_decIshunt (a : Word) (s : State) :
    exec (.decIshunt a) s =
      s.answer (.ofF32 (if signBit a then 0 else divF32 (toF32 (a.setWidth 32)) ishuntDiv)) := rfl

@[simp] theorem exec_encConfig (mode vshct vbusct avg : BitVec 3) (range rst : BitVec 1) (s : State) :
    exec (.encConfig mode vshct vbusct avg range rst) s =
      s.answer (.ofWord (packConfig mode vshct vbusct avg range rst)) := rfl

@[simp] theorem exec_encCal (a : Word) (s : State) : exec (.encCal a) s = s.answer (.ofWord a) := rfl

@[simp] theorem exec_getf_named (f : Field) (a : Word) (s : State) :
    exec (.getf (.named f) a) s = s.answer (.ofWord (getField f a)) := rfl

@[simp] theorem exec_getf_reserved0xE (a : Word) (s : State) :
    exec (.getf .reserved0xE a) s = raiseIllegal .illegalFsel s := rfl

@[simp] theorem exec_getf_reserved0xF (a : Word) (s : State) :
    exec (.getf .reserved0xF a) s = raiseIllegal .illegalFsel s := rfl

@[simp] theorem exec_setf_named (f : Field) (a b : Word) (s : State) :
    exec (.setf (.named f) a b) s = s.answer (.ofWord (setField f a b)) := rfl

@[simp] theorem exec_setf_reserved0xE (a b : Word) (s : State) :
    exec (.setf .reserved0xE a b) s = raiseIllegal .illegalFsel s := rfl

@[simp] theorem exec_setf_reserved0xF (a b : Word) (s : State) :
    exec (.setf .reserved0xF a b) s = raiseIllegal .illegalFsel s := rfl

@[simp] theorem exec_packBe (d0 d1 : Byte) (s : State) :
    exec (.packBe d0 d1) s = s.answer (.ofWord (composeBytes d0 d1)) := rfl

@[simp] theorem exec_unpackBe (a : Word) (s : State) :
    exec (.unpackBe a) s = s.answer (.ofBytes (highByte a) (lowByte a)) := rfl

@[simp] theorem exec_illegalOp0x0 (s : State) : exec .illegalOp0x0 s = raiseIllegal .illegalOp s := rfl

@[simp] theorem exec_illegalOp0x9 (s : State) : exec .illegalOp0x9 s = raiseIllegal .illegalOp s := rfl

@[simp] theorem exec_illegalOp0xA (s : State) : exec .illegalOp0xA s = raiseIllegal .illegalOp s := rfl

@[simp] theorem exec_illegalOp0xB (s : State) : exec .illegalOp0xB s = raiseIllegal .illegalOp s := rfl

@[simp] theorem exec_illegalOp0xC (s : State) : exec .illegalOp0xC s = raiseIllegal .illegalOp s := rfl

@[simp] theorem exec_illegalOp0xD (s : State) : exec .illegalOp0xD s = raiseIllegal .illegalOp s := rfl

@[simp] theorem exec_illegalOp0xE (s : State) : exec .illegalOp0xE s = raiseIllegal .illegalOp s := rfl

@[simp] theorem exec_illegalOp0xF (s : State) : exec .illegalOp0xF s = raiseIllegal .illegalOp s := rfl

end Sys2Proof.Machine
end

