-- ==== Sys2Proof/Laws/PerInstr.lean ====
section
/-! SUPPORT. For each operation: its opcode port carries its opcode, and that opcode stands in bits 71:68 of its table
row's pattern (30_encoding.md R62; spec/opcode_table.json). -/

namespace Sys2Proof.Laws.OpcodeRow

/-- The request of `i` names the opcode, and the table has a row of `i`'s mnemonic that fixes bits 71:68 to it. -/
def Statement (i : Instr) : Prop :=
  (encodeRequest i).op = i.opcode ∧
    ∃ row ∈ opcodeTable, row.mnemonic = i.mnemonic ∧ row.pattern.extractLsb' 68 4 = i.opcode ∧
      row.mask.extractLsb' 68 4 = 0xF

theorem decVbus (a : Word) : Statement (.decVbus a) :=
  ⟨rfl, ⟨"DEC.VBUS", 0x100000000000000000#72, 0xF00000000000000000#72⟩, by simp [opcodeTable], rfl, rfl, rfl⟩

theorem decIshunt (a : Word) : Statement (.decIshunt a) :=
  ⟨rfl, ⟨"DEC.ISHUNT", 0x200000000000000000#72, 0xF00000000000000000#72⟩, by simp [opcodeTable], rfl, rfl, rfl⟩

theorem encConfig (mode vshct vbusct avg : BitVec 3) (range rst : BitVec 1) : Statement (.encConfig mode vshct vbusct avg range rst) :=
  ⟨rfl, ⟨"ENC.CONFIG", 0x300000000000000000#72, 0xF00000000000000000#72⟩, by simp [opcodeTable], rfl, rfl, rfl⟩

theorem encCal (a : Word) : Statement (.encCal a) :=
  ⟨rfl, ⟨"ENC.CAL", 0x400000000000000000#72, 0xF00000000000000000#72⟩, by simp [opcodeTable], rfl, rfl, rfl⟩

theorem getf (sel : FieldSel) (a : Word) : Statement (.getf sel a) :=
  ⟨rfl, ⟨"GETF", 0x500000000000000000#72, 0xF00000000000000000#72⟩, by simp [opcodeTable], rfl, rfl, rfl⟩

theorem setf (sel : FieldSel) (a b : Word) : Statement (.setf sel a b) :=
  ⟨rfl, ⟨"SETF", 0x600000000000000000#72, 0xF00000000000000000#72⟩, by simp [opcodeTable], rfl, rfl, rfl⟩

theorem packBe (d0 d1 : Byte) : Statement (.packBe d0 d1) :=
  ⟨rfl, ⟨"PACK.BE", 0x700000000000000000#72, 0xF00000000000000000#72⟩, by simp [opcodeTable], rfl, rfl, rfl⟩

theorem unpackBe (a : Word) : Statement (.unpackBe a) :=
  ⟨rfl, ⟨"UNPACK.BE", 0x800000000000000000#72, 0xF00000000000000000#72⟩, by simp [opcodeTable], rfl, rfl, rfl⟩

theorem illegalOp0x0 : Statement .illegalOp0x0 :=
  ⟨rfl, ⟨"ILLEGAL_OP_0x0", 0x000000000000000000#72, 0xF00000000000000000#72⟩, by simp [opcodeTable], rfl, rfl, rfl⟩

theorem illegalOp0x9 : Statement .illegalOp0x9 :=
  ⟨rfl, ⟨"ILLEGAL_OP_0x9", 0x900000000000000000#72, 0xF00000000000000000#72⟩, by simp [opcodeTable], rfl, rfl, rfl⟩

theorem illegalOp0xA : Statement .illegalOp0xA :=
  ⟨rfl, ⟨"ILLEGAL_OP_0xA", 0xA00000000000000000#72, 0xF00000000000000000#72⟩, by simp [opcodeTable], rfl, rfl, rfl⟩

theorem illegalOp0xB : Statement .illegalOp0xB :=
  ⟨rfl, ⟨"ILLEGAL_OP_0xB", 0xB00000000000000000#72, 0xF00000000000000000#72⟩, by simp [opcodeTable], rfl, rfl, rfl⟩

theorem illegalOp0xC : Statement .illegalOp0xC :=
  ⟨rfl, ⟨"ILLEGAL_OP_0xC", 0xC00000000000000000#72, 0xF00000000000000000#72⟩, by simp [opcodeTable], rfl, rfl, rfl⟩

theorem illegalOp0xD : Statement .illegalOp0xD :=
  ⟨rfl, ⟨"ILLEGAL_OP_0xD", 0xD00000000000000000#72, 0xF00000000000000000#72⟩, by simp [opcodeTable], rfl, rfl, rfl⟩

theorem illegalOp0xE : Statement .illegalOp0xE :=
  ⟨rfl, ⟨"ILLEGAL_OP_0xE", 0xE00000000000000000#72, 0xF00000000000000000#72⟩, by simp [opcodeTable], rfl, rfl, rfl⟩

theorem illegalOp0xF : Statement .illegalOp0xF :=
  ⟨rfl, ⟨"ILLEGAL_OP_0xF", 0xF00000000000000000#72, 0xF00000000000000000#72⟩, by simp [opcodeTable], rfl, rfl, rfl⟩

end Sys2Proof.Laws.OpcodeRow
end

