-- ==== Sys2Proof/Laws/Step.lean ====
section
/-! SUPPORT. What one step can do (20_memory.md R50). -/

namespace Sys2Proof.Machine

/-- With nothing issued, a step runs the operation on the ports. -/
theorem step_idle {s : State} (h : s.pending = []) : step s = exec (decodeRequest s.ports) s := by
  unfold step; rw [h]

/-- With a request issued, a step takes it, runs its operation and collects the response. -/
theorem step_issued {s : State} {r : Request} {rest : List Request} (h : s.pending = r :: rest) :
    step s = collectNext (exec (decodeRequest r) (s.take r rest)) := by
  unfold step; rw [h]

/-- Everything a step can do when it answers a next state. -/
theorem step_cases {s t : State} (h : step s = .next t) :
    (s.pending = [] ∧ exec (decodeRequest s.ports) s = .next t) ∨
      ∃ r rest u, s.pending = r :: rest ∧ exec (decodeRequest r) (s.take r rest) = .next u ∧ t = u.collect := by
  cases hp : s.pending with
  | nil => rw [step_idle hp] at h; exact .inl ⟨rfl, h⟩
  | cons r rest =>
    rw [step_issued hp] at h
    obtain ⟨u, hu, ht⟩ := collectNext_inv h
    exact .inr ⟨r, rest, u, rfl, hu, ht⟩

/-- A run of k + 1 steps is a step and a run of k. -/
theorem run_succ (M : Host.Core) (k : Nat) (a b : M.State) (h : M.step a = .next b) :
    M.run (k + 1) a = M.run k b := by
  simp [Host.Core.run, h]

end Sys2Proof.Machine
end

