-- ==== Sys2Proof/Tests/Slice0.lean ====
section
/-! SUPPORT. The model against the spec's own vectors (95_test_vectors.md), the smoke test of the well-formedness checks,
and a witness for the hypotheses of each statement. Expected values are copied from the spec's files named beside them. -/

namespace Sys2Proof.Tests

open Sys2Proof.Machine

/-- The response one step from reset gives to an image the host has issued. -/
def answerTo (img : Image) : Option Response :=
  match step (State.reset.issue (.ofImage img)) with
  | .next t => some t.outs
  | .fault _ => none
  | .refused _ => none

/-- A legal response with result `y` and nothing else. -/
def onlyY (y : BitVec 32) : Option Response := some { y, q0 := 0, q1 := 0, ill := 0, cause := 0 }

/-! ### WellFormed: an ill-formed operation for each check -/

theorem test_opcode_check_refuses_0x0 : Instr.opcodeAssigned .illegalOp0x0 = false := by decide
theorem test_opcode_check_refuses_0x9 : Instr.wellFormed .illegalOp0x9 = false := by decide
theorem test_select_check_refuses_getf_0xE : Instr.wellFormed (.getf .reserved0xE 0x1234) = false := by decide
theorem test_select_check_refuses_setf_0xF : Instr.wellFormed (.setf .reserved0xF 0x0097 3) = false := by decide
theorem test_checks_pass_getf_vbus : Instr.wellFormed (.getf (.named .busVbus) 0x1000) = true := by decide

/-! ### Decode: words written bit by bit from R60's layout, as op fsel a b d0 d1 and the sixteen bits 15:0 -/

theorem test_decode_decVbus :
    decodeImage (0b0001#4 ++ 0b0000#4 ++ 0x1000#16 ++ 0#16 ++ 0#8 ++ 0#8 ++ 0#16) = .decVbus 0x1000 := by decide
theorem test_decode_decIshunt :
    decodeImage (0b0010#4 ++ 0b0000#4 ++ 0x8032#16 ++ 0#16 ++ 0#8 ++ 0#8 ++ 0#16) = .decIshunt 0x8032 := by decide
theorem test_decode_encConfig :
    decodeImage (0b0011#4 ++ 0b0000#4 ++ 0#16 ++ 0#16 ++ 0#8 ++ 0#8 ++ 0b1_00_1_001_010_011_100#16) =
      .encConfig 0b100 0b011 0b010 0b001 1 1 := by decide
theorem test_decode_encCal :
    decodeImage (0b0100#4 ++ 0b0000#4 ++ 0x000A#16 ++ 0#16 ++ 0#8 ++ 0#8 ++ 0#16) = .encCal 0x000A := by decide
theorem test_decode_getf :
    decodeImage (0b0101#4 ++ 0b1010#4 ++ 0x1000#16 ++ 0#16 ++ 0#8 ++ 0#8 ++ 0#16) =
      .getf (.named .busVbus) 0x1000 := by decide
theorem test_decode_setf :
    decodeImage (0b0110#4 ++ 0b0011#4 ++ 0x0097#16 ++ 0x0003#16 ++ 0#8 ++ 0#8 ++ 0#16) =
      .setf (.named .cfgAvg) 0x0097 0x0003 := by decide
theorem test_decode_packBe :
    decodeImage (0b0111#4 ++ 0b0000#4 ++ 0#16 ++ 0#16 ++ 0x80#8 ++ 0x32#8 ++ 0#16) = .packBe 0x80 0x32 := by decide
theorem test_decode_unpackBe :
    decodeImage (0b1000#4 ++ 0b0000#4 ++ 0x0097#16 ++ 0#16 ++ 0#8 ++ 0#8 ++ 0#16) = .unpackBe 0x0097 := by decide
theorem test_decode_illegal_opcodes :
    [0x0, 0x9, 0xA, 0xB, 0xC, 0xD, 0xE, 0xF].map (fun op : BitVec 4 => decodeImage (op ++ 0#68)) =
      [.illegalOp0x0, .illegalOp0x9, .illegalOp0xA, .illegalOp0xB, .illegalOp0xC, .illegalOp0xD, .illegalOp0xE,
        .illegalOp0xF] := by decide
theorem test_decode_reserved_selects :
    decodeImage 0x5E1234000000000000#72 = .getf .reserved0xE 0x1234 ∧
      decodeImage 0x6F0097000300000000#72 = .setf .reserved0xF 0x0097 0x0003 := by decide
/-- The listing `3 0 0000 0000 00 00 7FFF` of section 2.3: image bits 14:13 are ignored. -/
theorem test_decode_ignores_bits_14_13 : decodeImage 0x300000000000007FFF#72 = .encConfig 7 7 7 7 1 0 := by decide
theorem test_decode_bytes_in_written_order :
    decode [0x10, 0x10, 0x00, 0, 0, 0, 0, 0, 0] = .ok (.decVbus 0x1000) := by decide
theorem test_decode_rejects_eight_bytes : decode [0x10, 0x10, 0, 0, 0, 0, 0, 0] = .error (.wrongLength 8) := by decide
theorem test_encode_setf : encode (.setf (.named .busVbus) 0x0007 0x0200) = 0x6A0007020000000000#72 := by decide
theorem test_table_word : decodeTableWord 72 0x5A1000000000000000 = some (.getf (.named .busVbus) 0x1000) := by decide
theorem test_table_rows_disjoint :
    opcodeTable.Pairwise (fun r r' => r.pattern &&& r'.mask ≠ r'.pattern &&& r.mask) := by decide

/-! ### Vectors of 95_test_vectors.md section 2, one step each -/

/-- A rounding corner: not 0x40CCCCCD. -/
theorem test_decVbus_0x0FA0 : answerTo 0x100FA0000000000000#72 = onlyY 0x40CCCCCC := by decide
/-- Every other port is ignored. -/
theorem test_decVbus_all_ones : answerTo 0x1FFFFFFFFFFFFFFFFF#72 = onlyY 0x42D1B645 := by decide
theorem test_decIshunt_0x0032 : answerTo 0x200032000000000000#72 = onlyY 0x3C4E58FD := by decide
theorem test_decIshunt_0x8032 : answerTo 0x208032000000000000#72 = onlyY 0x00000000 := by decide
theorem test_encConfig_1725 : answerTo 0x300000000000001725#72 = onlyY 0x00001725 := by decide
theorem test_encConfig_max : answerTo 0x30000000000000FFFF#72 = onlyY 0x00009FFF := by decide
theorem test_encCal_800A : answerTo 0x40800A000000000000#72 = onlyY 0x0000800A := by decide
theorem test_getf_cal_value : answerTo 0x5B800A000000000000#72 = onlyY 0x0000000A := by decide
theorem test_getf_reserved :
    answerTo 0x5E1234000000000000#72 = some { y := 0, q0 := 0, q1 := 0, ill := 1, cause := 2 } := by decide
theorem test_setf_avg_cut : answerTo 0x630000000F00000000#72 = onlyY 0x00000E00 := by decide
theorem test_setf_cal_value : answerTo 0x6BFFFF000000000000#72 = onlyY 0x00008000 := by decide
theorem test_packBe_8032 : answerTo 0x700000000080320000#72 = onlyY 0x00008032 := by decide
theorem test_unpackBe_0097 :
    answerTo 0x800097000000000000#72 = some { y := 0, q0 := 0x00, q1 := 0x97, ill := 0, cause := 0 } := by decide
theorem test_unpackBe_8000 :
    answerTo 0x808000000000000000#72 = some { y := 0, q0 := 0x80, q1 := 0x00, ill := 0, cause := 0 } := by decide
/-- The opcode check comes first (section 2.8). -/
theorem test_illegal_0xF_with_fsel_0xE :
    answerTo 0xFE1000000000000000#72 = some { y := 0, q0 := 0, q1 := 0, ill := 1, cause := 1 } := by decide
theorem test_fsel_not_read_by_decVbus : answerTo 0x1E1000000000000000#72 = onlyY 0x40D1B717 := by decide

/-! ### Binary32 corners (95_test_vectors.md 2.1, 2.2; 10_state.md R24) -/

theorem test_vbus_0x2710_rounds_up_to_16 : mulF32 (toF32 0x2710) vbusScale = 0x41800000#32 := by decide
theorem test_ishunt_3970_is_one : divF32 (toF32 0x0F82) ishuntDiv = 0x3F800000#32 := by decide
theorem test_vbus_scale_is_the_rounded_literal : lit32 16 10000 = 0x3AD1B717#32 := by decide

/-! ### The host's side -/

/-- The first request after reset is the one withFetchWord places. -/
theorem test_withFetchWord_runs_first :
    step (State.reset.withFetchWord 72 0x40000A000000000000) =
      .next { ports := .ofImage 0x40000A000000000000#72, outs := { y := 10, q0 := 0, q1 := 0, ill := 0, cause := 0 },
              pending := [], served := [{ y := 10, q0 := 0, q1 := 0, ill := 0, cause := 0 }] } := by rfl
/-- The boot bytes of 95_test_vectors.md P1. -/
theorem test_boot_writes :
    initWrites (fun _ => 0x55) = [[0x55, 0x00, 0x0A], [0x55, 0x00, 0x97]] := by decide
theorem test_cfg_reserved_write_not_allowed : writeAllowed .configuration 0x6097 = false := by decide
/-- A line of 95_test_vectors.md P4 read as R79 writes it. -/
theorem test_parse_setf :
    parseLine "SETF CFG.AVG, a=w0, b=0x0003 ; w1 <- y" =
      .ok ⟨.core .setf, some .cfgAvg, [(.a, .name "w0"), (.b, .num 3)], some ("w1", .y)⟩ := by decide +kernel
theorem test_parse_pseudo : parseLine "CFG.BOOT" = .ok ⟨.pseudo .cfgBoot, none, [], none⟩ := by decide +kernel
/-- The image P4 gives for that line once w0 is 0x0097. -/
theorem test_assemble_setf :
    assemble [("w0", 0x97)] ⟨.core .setf, some .cfgAvg, [(.a, .name "w0"), (.b, .num 3)], none⟩ =
      .ok (.ofImage 0x630097000300000000#72) := by decide
theorem test_assemble_refuses_wide_mode :
    assemble [] ⟨.core .encConfig, none, [(.mode, .num 8)], none⟩ = .error (.tooWide .mode 8) := by decide
/-- Line 2 of 95_test_vectors.md P5 makes the program's end a fault, at the place of that line. -/
theorem test_illegal_line_faults_program :
    (match runProgram [.request (.ofImage 0x90000A000000000000#72)] [] State.reset with
      | .faulted t => t.firstIllegal
      | .final _ _ => none
      | .broken _ => none) = some 0 := by decide +kernel
/-- Line 3 of P5 is served all the same and does not clear the fault (60_exceptions.md R204, R207). -/
theorem test_legal_line_does_not_clear_fault :
    (match runProgram [.request (.ofImage 0x40000A000000000000#72)] []
        { State.reset with served := [{ y := 0, q0 := 0, q1 := 0, ill := 1, cause := 1 }] } with
      | .faulted t => some t.outs.y
      | .final _ _ => none
      | .broken _ => none) = some 0x0000000A := by decide +kernel

/-! ### Witnesses: each statement's hypotheses, met together -/

theorem witness_DecVbusIsMonotoneInTheWholeRawWord : (0x1000#16).toNat < (0x1001#16).toNat := by decide
theorem witness_DecIshuntIsClampedNearestEvenQuotient :
    (0x8000#16).getLsbD 15 = true ∧ (0x7FFF#16).getLsbD 15 = false := by decide
theorem witness_RoundingIsToNearestTiesToEven : 0 < 10000 ∧ 16 < (2 ^ 128 - 2 ^ 103) * 10000 := by decide
theorem witness_RoundingIsToNearestTiesToEven_threshold :
    0 < 1 ∧ 2 ^ 128 - 2 ^ 103 - 1 < (2 ^ 128 - 2 ^ 103) * 1 := by decide
theorem witness_MulAndDivRoundTheExactResultOnce :
    F32.finite 0x45800000#32 = true ∧ vbusScale.finite = true ∧
      F32.units 0x45800000#32 * vbusScale.units < (2 ^ 128 - 2 ^ 103) * 2 ^ 298 ∧ vbusScale.units ≠ 0 ∧
      F32.units 0x45800000#32 < (2 ^ 128 - 2 ^ 103) * vbusScale.units := by decide +kernel
theorem witness_SmallIntegersConvertExactly : (0xFFFFFF#32).toNat < 2 ^ 24 := by decide
theorem witness_EncConfigImageIsTheReservedClearWords :
    (respond (encodeRequest (.encConfig 7 2 2 0 0 0))).y = (0x0097#16).setWidth 32 := by decide
theorem witness_GetfReadsTheFieldsBits :
    Field.width .busOvf = 1 ∧ (FieldSel.reserved0xF = .reserved0xE ∨ FieldSel.reserved0xF = .reserved0xF) := by decide
theorem witness_SetfReplacesTheFieldsBits :
    FieldSel.reserved0xE = .reserved0xE ∨ FieldSel.reserved0xE = .reserved0xF := by decide
theorem witness_AccessorsObeyTheGetSetLaws : Field.fmask .cfgMode &&& Field.fmask .cfgVshct = 0 := by decide
theorem witness_FieldsRebuildTheirWordInAnyOrder :
    (RegName.calibration = .configuration ∨ RegName.calibration = .busVoltage ∨ RegName.calibration = .calibration) ∧
      [Field.calRsvd, .calValue].Perm (RegName.fields .calibration) := by decide
theorem witness_WireTransactionsAreBigEndian : ([0x10] : List Byte).length ≠ 2 := by decide
/-- Six different bytes, for the witness below; nothing rests on their values (R9). -/
def someCmd : RegCmd
  | .configuration => 0x10
  | .shuntVoltage => 0x21
  | .busVoltage => 0x32
  | .power => 0x43
  | .current => 0x54
  | .calibration => 0x65
theorem witness_WriteBytesNameRegisterAndWord :
    Function.Injective someCmd ∧ writeBytes someCmd .power 0x1234 = writeBytes someCmd .power 0x1234 :=
  ⟨fun r r' h => by cases r <;> cases r' <;> first | rfl | exact absurd h (by decide), rfl⟩
theorem witness_IllIsRaisedExactlyByIllFormedOperations :
    exec (.encCal 0x000A) State.reset =
        .next { State.reset with outs := { y := 10, q0 := 0, q1 := 0, ill := 0, cause := 0 } } ∧
      Instr.wellFormed (.encCal 0x000A) = true := ⟨rfl, by decide⟩
theorem witness_ResponseDependsOnTheReadPortsAlone :
    let r : Request := .ofImage 0x7000000000ABCD0000#72
    let r' : Request := .ofImage 0x7FFFFFFFFFABCDFFFF#72
    r ≠ r' ∧ r.op = r'.op ∧
      (r.op ∈ [0x1#4, 0x2#4, 0x4#4, 0x5#4, 0x6#4, 0x8#4] → r.a = r'.a) ∧
      (r.op ∈ [0x5#4, 0x6#4] → r.fsel = r'.fsel) ∧ (r.op = 0x6 → r.b = r'.b) ∧
      (r.op = 0x7 → r.d0 = r'.d0 ∧ r.d1 = r'.d1) ∧
      (r.op = 0x3 → r.cMode = r'.cMode ∧ r.cVshct = r'.cVshct ∧ r.cVbusct = r'.cVbusct ∧ r.cAvg = r'.cAvg ∧
        r.cRange = r'.cRange ∧ r.cRst = r'.cRst) := by decide
theorem witness_StepRunsTheDecodedRequest :
    (∃ t, exec (decodeImage 0x40000A000000000000#72)
        { State.reset with ports := .ofImage 0x40000A000000000000#72, pending := [] } = .next t) ∧
      State.reset.pending = [] ∧ 0xF00000000000000000 < 2 ^ 72 := ⟨⟨_, rfl⟩, rfl, by decide⟩
theorem witness_StepLeavesTheOutputsSettled : ∃ t, step State.reset = .next t := ⟨_, rfl⟩
theorem witness_RunServesRequestsInIssueOrder : State.reset.Settled := by decide
theorem witness_ProgramFaultIsNeverCleared :
    State.programFaulted { State.reset with served := [State.reset.outs] } = true := by decide
theorem witness_ProgramIsFaultedExactlyByIllFormedRequests :
    (decodeRequest (.ofImage 0x90000A000000000000#72)).wellFormed = false := by decide
theorem witness_FaultedProgramsAreNeverFinal :
    State.programFaulted { State.reset with served := [State.reset.outs] } = true ∧
      State.programFaulted State.reset = false ∧
      (decodeRequest (.ofImage 0x90000A000000000000#72)).wellFormed = false ∧
      (∀ r ∈ State.reset.pending, (decodeRequest r).wellFormed = true) ∧
      (∀ r ∈ [Request.ofImage 0x40000A000000000000#72], (decodeRequest r).wellFormed = true) := by decide
theorem witness_FaultedProgramsAreNeverFinal_final :
    ∃ env t, runProgram [] [] State.reset = .final env t := ⟨_, _, rfl⟩
theorem witness_OnlyNineByteStringsDecode :
    ([] : List Byte).length ≠ 9 ∧ ([0, 0, 0, 0, 0, 0, 0, 0, 0] : List Byte).length = 9 := by decide
theorem witness_AssembledLinesAreLegalRequests :
    assemble [] ⟨.core .packBe, none, [(.d0, .num 0x10), (.d1, .num 0)], none⟩ =
      .ok (encodeRequest (.packBe 0x10 0x00)) := by decide

end Sys2Proof.Tests
end

section
/-! PROOFS. Rounding to binary32 is to nearest, ties to even (00_scope.md R13, D11): a finite pattern of sign 0 is a
whole number of steps on a grid, and the rounding picks the nearest point of the grid of its result. -/

namespace Sys2Proof

/-! ### The fields of a pattern of sign 0 as numbers -/

/-- The fraction field is the low 23 bits (R13). -/
theorem F32.frac_eq (x : F32) : x.frac = x.toNat % 2 ^ 23 := by
  simp [F32.frac, BitVec.extractLsb'_toNat]

/-- The sign is the top bit (R13). -/
theorem F32.toNat_lt_of_sign {x : F32} (hs : x.sign = false) : x.toNat < 2 ^ 31 :=
  BitVec.toNat_lt_of_msb_false ((BitVec.msb_eq_getLsbD_last x).trans hs)

/-- With bit 31 clear the exponent field is all that stands above the fraction (R13). -/
theorem F32.expo_eq {x : F32} (hs : x.sign = false) : x.expo = x.toNat / 2 ^ 23 := by
  have hx := F32.toNat_lt_of_sign hs
  simp only [F32.expo, BitVec.extractLsb'_toNat, Nat.shiftRight_eq_div_pow]
  omega

/-- The finite patterns of sign 0 are those below the infinity's (R13). -/
theorem F32.finite_iff {x : F32} (hs : x.sign = false) : x.finite = true ↔ x.toNat < 0x7F800000 := by
  have hx := F32.toNat_lt_of_sign hs
  rw [F32.finite, F32.expo_eq hs, bne_iff_ne]
  omega

/-! ### A pattern as a point on a grid -/

/-- The pattern `x` of sign 0 stands for `q` steps of `2 ^ k` units: above the finest grid the significand `q` has its
hidden bit, and it may have just carried out of its 24 bits. -/
structure F32.OnGrid (x : F32) (k q : Nat) : Prop where
  sign : x.sign = false
  toNat : x.toNat = k * 2 ^ 23 + q
  carry : q ≤ 2 ^ 24
  hidden : k = 0 ∨ 2 ^ 23 ≤ q

/-- The value of a pattern on a grid; a carried significand is the first normal number of the next grid. -/
theorem F32.OnGrid.units {x : F32} {k q : Nat} (h : x.OnGrid k q) : x.units = q * 2 ^ k := by
  obtain ⟨hs, hx, hq, hk⟩ := h
  rw [F32.units, F32.expo_eq hs, F32.frac_eq, hx]
  obtain hlt | ⟨hge, hlt⟩ | rfl : q < 2 ^ 23 ∨ (2 ^ 23 ≤ q ∧ q < 2 ^ 24) ∨ q = 2 ^ 24 := by omega
  · obtain rfl : k = 0 := by omega
    have he : (0 * 2 ^ 23 + q) / 2 ^ 23 = 0 := by omega
    have hf : (0 * 2 ^ 23 + q) % 2 ^ 23 = q := by omega
    rw [he, hf, if_pos rfl]
  · have he : (k * 2 ^ 23 + q) / 2 ^ 23 = k + 1 := by omega
    have hf : 2 ^ 23 + (k * 2 ^ 23 + q) % 2 ^ 23 = q := by omega
    rw [he, hf, if_neg (by omega), Nat.add_sub_cancel]
  · have he : (k * 2 ^ 23 + 2 ^ 24) / 2 ^ 23 = k + 2 := by omega
    have hf : (k * 2 ^ 23 + 2 ^ 24) % 2 ^ 23 = 0 := by omega
    rw [he, hf, if_neg (by omega), show k + 2 - 1 = k + 1 by omega]
    ring

/-- Every pattern of sign 0 has a grid on which its significand did not carry. -/
theorem F32.exists_onGrid {x : F32} (hs : x.sign = false) : ∃ k q, x.OnGrid k q ∧ q < 2 ^ 24 := by
  rcases Nat.lt_or_ge x.toNat (2 ^ 23) with h | h
  · exact ⟨0, x.toNat, ⟨hs, by omega, by omega, .inl rfl⟩, by omega⟩
  · exact ⟨x.toNat / 2 ^ 23 - 1, 2 ^ 23 + x.toNat % 2 ^ 23, ⟨hs, by omega, by omega, .inr (by omega)⟩, by omega⟩

/-- A 24-bit significand stays below the first normal number of every coarser grid. -/
theorem mul_two_pow_lt_of_lt {q k l : Nat} (hq : q < 2 ^ 24) (hkl : k < l) : q * 2 ^ k < 2 ^ 23 * 2 ^ l := by
  calc q * 2 ^ k < 2 ^ 24 * 2 ^ k := Nat.mul_lt_mul_of_pos_right hq (by positivity)
    _ = 2 ^ 23 * 2 ^ (k + 1) := by ring
    _ ≤ 2 ^ 23 * 2 ^ l := Nat.mul_le_mul_left _ (Nat.pow_le_pow_right (by omega) hkl)

/-- For patterns of sign 0 the order of the patterns is the order of the values (R101). -/
theorem F32.units_lt_units {x y : F32} (hx : x.sign = false) (hy : y.sign = false) (h : x.toNat < y.toNat) :
    x.units < y.units := by
  obtain ⟨k, q, gx, hq⟩ := F32.exists_onGrid hx
  obtain ⟨l, r, gy, hr⟩ := F32.exists_onGrid hy
  rw [gx.units, gy.units]
  have nx := gx.toNat
  have ny := gy.toNat
  have hidx := gx.hidden
  have hidy := gy.hidden
  obtain hkl | rfl : k < l ∨ k = l := by omega
  · exact Nat.lt_of_lt_of_le (mul_two_pow_lt_of_lt hq hkl) (Nat.mul_le_mul_right _ (by omega))
  · exact Nat.mul_lt_mul_of_pos_right (by omega) (by positivity)

/-- No two patterns of sign 0 have the same value. -/
theorem F32.eq_of_units_eq {x y : F32} (hx : x.sign = false) (hy : y.sign = false) (h : x.units = y.units) : x = y := by
  rcases Nat.lt_trichotomy x.toNat y.toNat with lt | eq | gt
  · have := F32.units_lt_units hx hy lt
    omega
  · exact BitVec.eq_of_toNat_eq eq
  · have := F32.units_lt_units hy hx gt
    omega

/-- A pattern of sign 0 lies on the grid of step `2 ^ k`, or below the first normal number of that grid. -/
theorem F32.on_grid_or_below {x : F32} (hs : x.sign = false) (k : Nat) :
    (∃ m, x.units = m * 2 ^ k) ∨ (0 < k ∧ x.units < 2 ^ 23 * 2 ^ k) := by
  obtain ⟨l, q, g, hq⟩ := F32.exists_onGrid hs
  rw [g.units]
  rcases Nat.lt_or_ge l k with hlk | hkl
  · exact .inr ⟨by omega, mul_two_pow_lt_of_lt hq hlk⟩
  · exact .inl ⟨q * 2 ^ (l - k), by rw [Nat.mul_assoc, ← Nat.pow_add, Nat.sub_add_cancel hkl]⟩

/-! ### Rounding to a whole number -/

/-- Rounding never goes below the whole part. -/
theorem div_le_roundDiv (n d : Nat) : n / d ≤ roundDiv n d := by
  unfold roundDiv
  split_ifs <;> omega

/-- The rounded number is at most half a step away, and it is even when it is just half a step away (D11). -/
theorem roundDiv_half_step {n d : Nat} (hd : 0 < d) :
    2 * distance (roundDiv n d * d) n ≤ d ∧ (2 * distance (roundDiv n d * d) n = d → roundDiv n d % 2 = 0) := by
  have hs := div_mul_add_mod n d
  have hr := Nat.mod_lt n hd
  unfold roundDiv distance
  split_ifs with below above
  · omega
  · simp only [Nat.add_one_mul]
    omega
  · have even : (n / d + n / d % 2) % 2 = 0 := by omega
    refine ⟨?_, fun _ => even⟩
    obtain h | h := Nat.mod_two_eq_zero_or_one (n / d)
    · rw [h, Nat.add_zero]
      omega
    · simp only [h, Nat.add_one_mul]
      omega

/-- What lies below the half-way point after `m` is not rounded past `m`. -/
theorem roundDiv_le {n d m : Nat} (h : 2 * n < (2 * m + 1) * d) : roundDiv n d ≤ m := by
  have hd : 0 < d := Nat.pos_of_mul_pos_left (Nat.zero_lt_of_lt h)
  have half := (roundDiv_half_step (n := n) hd).1
  by_contra past
  have far : (m + 1) * d ≤ roundDiv n d * d := Nat.mul_le_mul_right d (by omega)
  rw [show (2 * m + 1) * d = 2 * (m * d) + d by ring] at h
  rw [Nat.add_one_mul] at far
  unfold distance at half
  omega

/-- Two different whole numbers of steps are at least one step apart. -/
theorem step_le_distance_add {a b d : Nat} (n : Nat) (h : a ≠ b) : d ≤ distance (a * d) n + distance (b * d) n := by
  unfold distance
  rcases Nat.lt_or_gt_of_ne h with lt | gt
  · have := Nat.mul_le_mul_right d (Nat.succ_le_of_lt lt)
    rw [Nat.succ_mul] at this
    omega
  · have := Nat.mul_le_mul_right d (Nat.succ_le_of_lt gt)
    rw [Nat.succ_mul] at this
    omega

/-- On a tie the rounded number is even (D11). -/
theorem roundDiv_even_of_tie {n d m : Nat} (hd : 0 < d) (hne : m ≠ roundDiv n d)
    (tie : distance (roundDiv n d * d) n = distance (m * d) n) : roundDiv n d % 2 = 0 := by
  obtain ⟨half, even⟩ := roundDiv_half_step (n := n) hd
  have apart := step_le_distance_add (d := d) n hne
  exact even (by omega)

/-! ### Rounding to a pattern -/

/-- Past the finest grid the exact value has a whole 24-bit significand on its grid. -/
theorem two_pow_mul_le_of_expoStep_pos {n d : Nat} (hk : 0 < expoStep n d) :
    2 ^ 23 * (d * 2 ^ expoStep n d) ≤ n := by
  unfold expoStep at *
  have hlog : 2 ^ Nat.log2 (n / d) ≤ n / d := Nat.log2_self_le (by rintro h; simp [h] at hk)
  calc 2 ^ 23 * (d * 2 ^ (Nat.log2 (n / d) - 23)) = 2 ^ (23 + (Nat.log2 (n / d) - 23)) * d := by ring
    _ = 2 ^ Nat.log2 (n / d) * d := by rw [show 23 + (Nat.log2 (n / d) - 23) = Nat.log2 (n / d) by omega]
    _ ≤ n / d * d := Nat.mul_le_mul_right d hlog
    _ ≤ n := Nat.div_mul_le_self n d

/-- The significand of the exact value has no more than 24 bits before its point. -/
theorem lt_two_pow_mul_expoStep {n d : Nat} (hd : 0 < d) : n < 2 ^ 24 * (d * 2 ^ expoStep n d) := by
  have hlog : n / d < 2 ^ (Nat.log2 (n / d) + 1) := Nat.lt_log2_self
  calc n < 2 ^ (Nat.log2 (n / d) + 1) * d := (Nat.div_lt_iff_lt_mul hd).1 hlog
    _ ≤ 2 ^ (24 + expoStep n d) * d :=
      Nat.mul_le_mul_right d (Nat.pow_le_pow_right (by omega) (by unfold expoStep; omega))
    _ = 2 ^ 24 * (d * 2 ^ expoStep n d) := by ring

/-- The overflow threshold in units of `2 ^ -149`. -/
theorem threshold_units : (2 ^ 128 - 2 ^ 103) * 2 ^ 149 = (2 ^ 25 - 1) * 2 ^ 252 := by
  rw [show 2 ^ 128 - 2 ^ 103 = (2 ^ 25 - 1) * 2 ^ 103 by norm_num, Nat.mul_assoc, ← Nat.pow_add]

/-- A value with at most 24 bits before its point on the grid of step `2 ^ e` takes no coarser grid. -/
theorem expoStep_le {n d e : Nat} (h : n < 2 ^ 24 * (d * 2 ^ e)) : expoStep n d ≤ e := by
  rcases Nat.eq_zero_or_pos (expoStep n d) with h0 | hpos
  · omega
  · have hlt : 2 ^ expoStep n d * (2 ^ 23 * d) < 2 ^ (e + 1) * (2 ^ 23 * d) := by
      calc 2 ^ expoStep n d * (2 ^ 23 * d) = 2 ^ 23 * (d * 2 ^ expoStep n d) := by ring
        _ < 2 ^ 24 * (d * 2 ^ e) := Nat.lt_of_le_of_lt (two_pow_mul_le_of_expoStep_pos hpos) h
        _ = 2 ^ (e + 1) * (2 ^ 23 * d) := by ring
    exact Nat.le_of_lt_succ ((Nat.pow_lt_pow_iff_right (by omega)).1 (Nat.lt_of_mul_lt_mul_right hlt))

/-- The rounded significand has 24 bits, or has just carried out of them. -/
theorem roundDiv_expoStep_le {n d : Nat} (hd : 0 < d) : roundDiv n (d * 2 ^ expoStep n d) ≤ 2 ^ 24 := by
  have hn := lt_two_pow_mul_expoStep (n := n) hd
  exact roundDiv_le (by linarith)

/-- Below the overflow threshold the sum of exponent and significand stays below the pattern of the infinity. -/
theorem expoStep_add_roundDiv_lt {n d : Nat} (hd : 0 < d) (h : n < (2 ^ 25 - 1) * 2 ^ 252 * d) :
    expoStep n d * 2 ^ 23 + roundDiv n (d * 2 ^ expoStep n d) < 0x7F800000 := by
  have hq := roundDiv_expoStep_le (n := n) hd
  have hle : expoStep n d ≤ 253 := expoStep_le (by omega)
  obtain hk | hk : expoStep n d ≤ 252 ∨ expoStep n d = 253 := by omega
  · omega
  · have hq' : roundDiv n (d * 2 ^ expoStep n d) ≤ 2 ^ 24 - 1 := by
      apply roundDiv_le
      calc 2 * n < 2 * ((2 ^ 25 - 1) * 2 ^ 252 * d) := by omega
        _ = (2 * (2 ^ 24 - 1) + 1) * (d * 2 ^ expoStep n d) := by rw [hk]; ring
    omega

/-- Below the overflow threshold a rounded magnitude is that sum. -/
theorem roundUnits_eq {n d : Nat} (hd : 0 < d) (h : n < (2 ^ 25 - 1) * 2 ^ 252 * d) :
    roundUnits n d = expoStep n d * 2 ^ 23 + roundDiv n (d * 2 ^ expoStep n d) :=
  Nat.min_eq_right (expoStep_add_roundDiv_lt hd h).le

section BelowThreshold
variable {num den : Nat} (hd : 0 < den) (h : num < (2 ^ 128 - 2 ^ 103) * den)
include h

/-- The overflow threshold for the exact value in units. -/
theorem units_lt_of_below_threshold : num * 2 ^ 149 < (2 ^ 25 - 1) * 2 ^ 252 * den := by
  rw [← threshold_units, Nat.mul_right_comm]
  exact Nat.mul_lt_mul_of_pos_right h (by positivity)

include hd

/-- Below the overflow threshold a rounded value is finite. -/
theorem roundF32_finite : (roundF32 false num den).finite = true := by
  have hn := units_lt_of_below_threshold h
  rw [F32.finite_iff (roundF32_sign ..), roundF32_toNat, roundUnits_eq hd hn]
  exact expoStep_add_roundDiv_lt hd hn

/-- Below the overflow threshold a rounded value is the rounded whole number of steps on the grid of its exact value. -/
theorem roundF32_onGrid :
    (roundF32 false num den).OnGrid (expoStep (num * 2 ^ 149) den)
      (roundDiv (num * 2 ^ 149) (den * 2 ^ expoStep (num * 2 ^ 149) den)) where
  sign := roundF32_sign ..
  toNat := (roundF32_toNat num den).trans (roundUnits_eq hd (units_lt_of_below_threshold h))
  carry := roundDiv_expoStep_le hd
  hidden := by
    rcases Nat.eq_zero_or_pos (expoStep (num * 2 ^ 149) den) with h0 | hpos
    · exact .inl h0
    · refine .inr (Nat.le_trans ?_ (div_le_roundDiv _ _))
      exact (Nat.le_div_iff_mul_le (by positivity)).2 (two_pow_mul_le_of_expoStep_pos hpos)

/-- A rounded value is the nearest one (R13, D11): a pattern on its grid is no nearer because the rounding on the grid
is to nearest, and a pattern below the grid is farther than the grid's first normal number. -/
theorem roundF32_nearestEven : NearestEven num den (roundF32 false num den) := by
  have grid := roundF32_onGrid hd h
  refine ⟨grid.sign, roundF32_finite hd h, fun z hz _ => ?_⟩
  set y := roundF32 false num den
  set n := num * 2 ^ 149
  set k := expoStep n den
  set q := roundDiv n (den * 2 ^ k) with hq
  have hD : 0 < den * 2 ^ k := by positivity
  have steps (m : Nat) : m * 2 ^ k * den = m * (den * 2 ^ k) := by ring
  rw [grid.units, steps]
  obtain ⟨m, hm⟩ | ⟨hk, below⟩ := F32.on_grid_or_below hz k
  · rw [hm, steps]
    refine ⟨roundDiv_nearest n _ m hD, fun hne tie => ?_⟩
    have hmq : m ≠ q := by
      rintro rfl
      exact hne (F32.eq_of_units_eq hz grid.sign (by rw [hm, grid.units]))
    have even : q % 2 = 0 := roundDiv_even_of_tie hD hmq tie
    rw [F32.frac_eq, grid.toNat]
    omega
  · have first : 2 ^ 23 * (den * 2 ^ k) ≤ n := two_pow_mul_le_of_expoStep_pos hk
    have nearest := roundDiv_nearest n (den * 2 ^ k) (2 ^ 23) hD
    have farther : distance (2 ^ 23 * (den * 2 ^ k)) n < distance (z.units * den) n := by
      have hz' : z.units * den < 2 ^ 23 * (den * 2 ^ k) := by
        rw [← steps]
        exact Nat.mul_lt_mul_of_pos_right below hd
      unfold distance
      omega
    rw [← hq] at nearest
    exact ⟨by omega, fun _ tie => by omega⟩

end BelowThreshold

/-- Settles O6, by the grid of the result. -/
theorem roundingIsToNearestTiesToEven : Obligations.RoundingIsToNearestTiesToEven :=
  fun _ _ => roundF32_nearestEven

/-! ### Products and quotients -/

/-- Clearing bit 31 of a rounded value leaves its magnitude (R13). -/
theorem roundF32_and_magnitude (sign : Bool) (num den : Nat) :
    roundF32 sign num den &&& 0x7FFFFFFF#32 = roundF32 false num den := by
  rw [show 0x7FFFFFFF#32 = BitVec.ofBool false ++ BitVec.allOnes 31 from rfl]
  rw [roundF32, roundF32, BitVec.and_append, BitVec.and_allOnes]
  cases sign <;> rfl

/-- The product of finite operands is the exact one, rounded (R13). -/
theorem mulF32_of_finite {x y : F32} (hx : x.finite = true) (hy : y.finite = true) :
    mulF32 x y = roundF32 (x.sign ^^ y.sign) (x.units * y.units) (2 ^ 298) := by
  have hden : 2 ^ 149 * 2 ^ 149 = 2 ^ 298 := by rw [show 298 = 149 + 149 from rfl, Nat.pow_add]
  rw [mulF32, hx, hy, hden, Bool.and_self, if_pos rfl]

/-- The quotient of finite operands by a divisor that is not zero is the exact one, rounded (R13). -/
theorem divF32_of_finite {x y : F32} (hx : x.finite = true) (hy : y.finite = true) (h0 : y.units ≠ 0) :
    divF32 x y = roundF32 (x.sign ^^ y.sign) x.units y.units := by
  simp [divF32, hx, hy, h0]

/-- Settles O7: the sign is the rounding's own, and without it the result is the rounded exact magnitude of O6. -/
theorem mulAndDivRoundTheExactResultOnce : Obligations.MulAndDivRoundTheExactResultOnce := by
  intro x y hx hy
  refine ⟨fun hmul => ?_, fun h0 hdiv => ?_⟩
  · rw [mulF32_of_finite hx hy, roundF32_sign, roundF32_and_magnitude]
    exact ⟨rfl, roundF32_nearestEven (by positivity) hmul⟩
  · rw [divF32_of_finite hx hy h0, roundF32_sign, roundF32_and_magnitude]
    exact ⟨rfl, roundF32_nearestEven (Nat.pos_of_ne_zero h0) hdiv⟩

/-! ### Integers -/

/-- Settles O8: the value lies on its own grid, so the rounding changes nothing. -/
theorem smallIntegersConvertExactly : Obligations.SmallIntegersConvertExactly := by
  intro n hn
  have below : n.toNat < (2 ^ 128 - 2 ^ 103) * 1 := by omega
  have grid := roundF32_onGrid Nat.one_pos below
  refine ⟨grid.sign, roundF32_finite Nat.one_pos below, grid.units.trans ?_⟩
  set k := expoStep (n.toNat * 2 ^ 149) 1
  have hk : k ≤ 149 := expoStep_le (by omega)
  have onGrid : n.toNat * 2 ^ 149 = n.toNat * 2 ^ (149 - k) * (1 * 2 ^ k) := by
    rw [Nat.one_mul, Nat.mul_assoc, ← Nat.pow_add, Nat.sub_add_cancel hk]
  rw [onGrid, roundDiv_exact _ _ (by positivity), Nat.one_mul]

end Sys2Proof
end

section
/-! PROOFS. The bytes of a register write (00_scope.md R9, 43_bytes.md R164). -/

namespace Sys2Proof.Machine

/-- A word is composed of its own two bytes (R43). -/
theorem composeBytes_highByte_lowByte (w : Word) : composeBytes (highByte w) (lowByte w) = w := by
  apply BitVec.eq_of_toNat_eq
  rw [composeBytes_toNat, highByte_toNat, lowByte_toNat]
  exact Nat.div_add_mod' _ _

/-- Settles O27: the first byte gives the register, the other two compose to the word. -/
theorem writeBytesNameRegisterAndWord : Obligations.WriteBytesNameRegisterAndWord := by
  intro cmd hcmd r r' w w' h
  obtain ⟨hr, hhigh, hlow⟩ : cmd r = cmd r' ∧ highByte w = highByte w' ∧ lowByte w = lowByte w' := by
    simpa [writeBytes] using h
  refine ⟨hcmd hr, ?_⟩
  rw [← composeBytes_highByte_lowByte w, hhigh, hlow, composeBytes_highByte_lowByte]

end Sys2Proof.Machine
end

section
/-! PROOFS. What a request is answered with (10_state.md): the kinds of response an operation has, one for all states. -/

namespace Sys2Proof.Machine

/-! ### The response of an operation -/

/-- The responses an operation may have: the illegal one, opcode before field select (10_state.md R36), or a legal one
that drives the outputs its opcode names (R26, R27). -/
inductive Answer (i : Instr) : Response → Prop where
  | illegalOp (hop : i.opcodeAssigned = false) : Answer i (.illegal .illegalOp)
  | illegalFsel (hop : i.opcodeAssigned = true) (hsel : i.selectAssigned = false) : Answer i (.illegal .illegalFsel)
  | value (hwf : i.wellFormed = true) (hop : i.opcode = 1 ∨ i.opcode = 2) (x : F32) : Answer i (.ofF32 x)
  | word (hwf : i.wellFormed = true) (hop : i.opcode ≠ 8) (w : Word) : Answer i (.ofWord w)
  | bytes (hwf : i.wellFormed = true) (hop : i.opcode = 8) (q0 q1 : Byte) : Answer i (.ofBytes q0 q1)

/-- Every operation drives the outputs with one response, the same from every state (R20; 20_memory.md R47). -/
theorem exec_eq_answer (i : Instr) : ∃ rsp, Answer i rsp ∧ ∀ s, exec i s = s.answer rsp := by
  cases i with
  | decVbus a => exact ⟨_, .value rfl (.inl rfl) _, exec_decVbus a⟩
  | decIshunt a => exact ⟨_, .value rfl (.inr rfl) _, exec_decIshunt a⟩
  | encConfig mode vshct vbusct avg range rst =>
    exact ⟨_, .word rfl (by simp [Instr.opcode]) _, exec_encConfig mode vshct vbusct avg range rst⟩
  | encCal a => exact ⟨_, .word rfl (by simp [Instr.opcode]) _, exec_encCal a⟩
  | getf sel a =>
    cases sel with
    | named f => exact ⟨_, .word rfl (by simp [Instr.opcode]) _, exec_getf_named f a⟩
    | reserved0xE => exact ⟨_, .illegalFsel rfl rfl, exec_getf_reserved0xE a⟩
    | reserved0xF => exact ⟨_, .illegalFsel rfl rfl, exec_getf_reserved0xF a⟩
  | setf sel a b =>
    cases sel with
    | named f => exact ⟨_, .word rfl (by simp [Instr.opcode]) _, exec_setf_named f a b⟩
    | reserved0xE => exact ⟨_, .illegalFsel rfl rfl, exec_setf_reserved0xE a b⟩
    | reserved0xF => exact ⟨_, .illegalFsel rfl rfl, exec_setf_reserved0xF a b⟩
  | packBe d0 d1 => exact ⟨_, .word rfl (by simp [Instr.opcode]) _, exec_packBe d0 d1⟩
  | unpackBe a => exact ⟨_, .bytes rfl rfl _ _, exec_unpackBe a⟩
  | illegalOp0x0 => exact ⟨_, .illegalOp rfl, exec_illegalOp0x0⟩
  | illegalOp0x9 => exact ⟨_, .illegalOp rfl, exec_illegalOp0x9⟩
  | illegalOp0xA => exact ⟨_, .illegalOp rfl, exec_illegalOp0xA⟩
  | illegalOp0xB => exact ⟨_, .illegalOp rfl, exec_illegalOp0xB⟩
  | illegalOp0xC => exact ⟨_, .illegalOp rfl, exec_illegalOp0xC⟩
  | illegalOp0xD => exact ⟨_, .illegalOp rfl, exec_illegalOp0xD⟩
  | illegalOp0xE => exact ⟨_, .illegalOp rfl, exec_illegalOp0xE⟩
  | illegalOp0xF => exact ⟨_, .illegalOp rfl, exec_illegalOp0xF⟩

/-- The response the machine gives at reset is the one it gives from every state (R20). -/
theorem exec_decodeRequest (r : Request) (s : State) : exec (decodeRequest r) s = s.answer (respond r) := by
  obtain ⟨rsp, -, h⟩ := exec_eq_answer (decodeRequest r)
  have hr : respond r = rsp := by simp [respond, h]
  rw [hr, h]

/-- Settles O40: an operation's answer is the same from every state, the reset state among them. -/
theorem respondIsTheAnswerFromEveryState : Obligations.RespondIsTheAnswerFromEveryState :=
  exec_decodeRequest

/-! ### Settled outputs -/

/-- A request on the ports, once run, leaves the outputs settled (R35). -/
theorem settled_of_exec_ports {s t : State} (h : exec (decodeRequest s.ports) s = .next t) : t.Settled := by
  rw [exec_decodeRequest] at h
  rw [State.answer_next h]

/-- Settles O37: the request a step runs is the one on the ports, and collecting its response changes neither. -/
theorem stepLeavesTheOutputsSettled : Obligations.StepLeavesTheOutputsSettled := by
  intro s t h
  obtain ⟨-, idle⟩ | ⟨r, rest, u, -, run, rfl⟩ := step_cases h
  · exact settled_of_exec_ports idle
  · have hu : u.Settled := settled_of_exec_ports (s := s.take r rest) run
    exact hu

/-- Settles O38: the opcode 0 of the all-zero request is unassigned. -/
theorem resetOutputsAreSettled : Obligations.ResetOutputsAreSettled := by
  have h : exec (decodeRequest State.reset.ports) State.reset = .next State.reset := rfl
  exact settled_of_exec_ports h

/-! ### Undriven outputs -/

/-- A word zero-extended leaves the upper half 0 (R26). -/
theorem extractLsb'_setWidth_word (w : Word) : (w.setWidth 32).extractLsb' 16 16 = 0 := by
  ext i hi
  simp

/-- Settles O34, by the kind of response. -/
theorem undrivenOutputsAreZero : Obligations.UndrivenOutputsAreZero := by
  intro i s
  obtain ⟨rsp, kind, h⟩ := exec_eq_answer i
  refine ⟨_, h s, ?_⟩
  cases kind with
  | illegalOp hop => simp
  | illegalFsel hop hsel => simp
  | value hwf hop x => rcases hop with hop | hop <;> simp [hop]
  | word hwf hop w => exact ⟨fun _ => ⟨rfl, rfl⟩, fun h8 => absurd h8 hop, fun _ _ => extractLsb'_setWidth_word w⟩
  | bytes hwf hop q0 q1 => simp [hop]

/-! ### The order of the legality checks -/

/-- A legal request passes both checks (60_exceptions.md R200). -/
theorem wellFormed_iff (i : Instr) :
    i.wellFormed = true ↔ i.opcodeAssigned = true ∧ i.selectAssigned = true := by
  rw [Instr.wellFormed, Bool.and_eq_true]

/-- The assigned opcodes are 1 to 8 (30_encoding.md R62). -/
theorem opcodeAssigned_eq_false_iff (i : Instr) :
    i.opcodeAssigned = false ↔ i.opcode = 0 ∨ 9 ≤ i.opcode.toNat := by
  cases i <;> simp [Instr.opcodeAssigned, Instr.opcode]

/-- The opcode check of a request examines its opcode port (30_encoding.md R63). -/
theorem opcodeAssigned_decodeRequest_eq_false_iff (r : Request) :
    (decodeRequest r).opcodeAssigned = false ↔ r.op = 0 ∨ 9 ≤ r.op.toNat := by
  rw [opcodeAssigned_eq_false_iff, opcode_decodeRequest]

/-- The assigned field selects are those below 14 (30_encoding.md R70). -/
theorem assigned_ofCode_eq_false_iff : ∀ c : BitVec 4, (FieldSel.ofCode c).assigned = false ↔ 14 ≤ c.toNat := by
  decide

/-- Only GETF and SETF examine the field select (10_state.md R25). -/
theorem selectAssigned_decodeRequest_eq_false_iff (r : Request) :
    (decodeRequest r).selectAssigned = false ↔ (r.op = 5 ∨ r.op = 6) ∧ 14 ≤ r.fsel.toNat := by
  rw [← opcode_decodeRequest r]
  unfold decodeRequest
  split <;> simp [Instr.selectAssigned, Instr.opcode, assigned_ofCode_eq_false_iff]

/-- Settles O30, by the kind of response: each kind says which check failed first. -/
theorem opcodeIsCheckedBeforeFieldSelect : Obligations.OpcodeIsCheckedBeforeFieldSelect := by
  intro r s
  obtain ⟨rsp, kind, h⟩ := exec_eq_answer (decodeRequest r)
  refine ⟨_, h s, ?_⟩
  simp only [← selectAssigned_decodeRequest_eq_false_iff, ← opcodeAssigned_decodeRequest_eq_false_iff]
  cases kind with
  | illegalOp hop => simp [hop]
  | illegalFsel hop hsel => simp [hop, hsel]
  | value hwf hop x => simp [(wellFormed_iff _).1 hwf]
  | word hwf hop w => simp [(wellFormed_iff _).1 hwf]
  | bytes hwf hop q0 q1 => simp [(wellFormed_iff _).1 hwf]

/-! ### The ports an operation reads -/

/-- Settles O35: the two requests decode to the same operation, since an assigned opcode `k`, in case `h_(k + 1)` of the
decoder, reads the ports they agree on and an unassigned one reads none. -/
theorem responseDependsOnTheReadPortsAlone : Obligations.ResponseDependsOnTheReadPortsAlone := by
  intro r r' hop ha hsel hb hd hc s
  have same : decodeRequest r = decodeRequest r' := by
    unfold decodeRequest
    rw [← hop]
    have op_eq {k : BitVec 4} (h : r.op.toNat = k.toNat) : r.op = k := BitVec.eq_of_toNat_eq h
    split
    case h_2 h => rw [ha (by simp [op_eq (k := 1) h])]
    case h_3 h => rw [ha (by simp [op_eq (k := 2) h])]
    case h_4 h =>
      obtain ⟨hMode, hVshct, hVbusct, hAvg, hRange, hRst⟩ := hc (op_eq h)
      rw [hMode, hVshct, hVbusct, hAvg, hRange, hRst]
    case h_5 h => rw [ha (by simp [op_eq (k := 4) h])]
    case h_6 h =>
      have op5 : r.op = 5 := op_eq h
      rw [ha (by simp [op5]), hsel (by simp [op5])]
    case h_7 h =>
      have op6 : r.op = 6 := op_eq h
      rw [ha (by simp [op6]), hsel (by simp [op6]), hb op6]
    case h_8 h =>
      obtain ⟨hd0, hd1⟩ := hd (op_eq h)
      rw [hd0, hd1]
    case h_9 h => rw [ha (by simp [op_eq (k := 8) h])]
    all_goals rfl -- the unassigned opcodes
  rw [same]

/-! ### The constants -/

/-- Settles O9, by computing the roundings and the exact values. -/
theorem constantsAreTheRoundedLiterals : Obligations.ConstantsAreTheRoundedLiterals := by
  refine ⟨?_, ?_, ?_, ?_⟩
  · decide
  · decide
  · decide
  · decide

end Sys2Proof.Machine
end

section
/-! PROOFS. The byte form of an image (30_encoding.md R60; log entry 5). -/

namespace Sys2Proof

/-- Every image is read back from the bytes that write it. -/
theorem imageOfBytes_bytesOfImage (img : Image) : imageOfBytes (bytesOfImage img) = .ok img := by
  have join (start len : Nat) :
      img.extractLsb' (start + 8) len ++ img.extractLsb' start 8 = img.extractLsb' start (len + 8) :=
    BitVec.extractLsb'_append_extractLsb'_eq_extractLsb' rfl
  rw [bytesOfImage, imageOfBytes, join 56, join 48, join 40, join 32, join 24, join 16, join 8, join 0]
  exact congrArg _ BitVec.extractLsb'_eq_self

/-- The bytes of an image decode to the image's operation. -/
theorem decode_bytesOfImage (img : Image) : decode (bytesOfImage img) = .ok (decodeImage img) := by
  rw [decode, imageOfBytes_bytesOfImage]

/-- A word of 72 bits is an image as it stands. -/
theorem imageOfTableWord_72 (w : Nat) : imageOfTableWord 72 w = BitVec.ofNat 72 w := by
  apply BitVec.eq_of_toNat_eq
  simp [imageOfTableWord]

/-- A word of 72 bits decodes as the image it is. -/
theorem decodeTableWord_72 (w : Nat) : decodeTableWord 72 w = some (decodeImage (BitVec.ofNat 72 w)) := by
  simp [decodeTableWord, decode_bytesOfImage, imageOfTableWord_72]

end Sys2Proof
end

section
/-! PROOFS. Requests in order, and register transactions on the wire (20_memory.md). -/

namespace Sys2Proof.Machine

/-! ### One operation -/

/-- Settles O33: driving the outputs with the operation's one response is its whole effect. -/
theorem operationsOnlyDriveTheOutputs : Obligations.OperationsOnlyDriveTheOutputs := by
  intro i
  obtain ⟨rsp, -, h⟩ := exec_eq_answer i
  exact ⟨rsp, fun s => (h s).trans (s.answer_eq rsp)⟩

/-! ### One step -/

/-- Settles O36: a step on an issued request is its operation and then the collection. -/
theorem stepRunsTheDecodedRequest : Obligations.StepRunsTheDecodedRequest := by
  refine ⟨fun s t img rest run => ?_, fun s => step_idle, fun s w _ => ⟨decodeTableWord_72 w, ?_⟩⟩
  · calc step { s with pending := .ofImage img :: rest }
        = collectNext (exec (decodeImage img) { s with ports := .ofImage img, pending := rest }) := step_issued rfl
      _ = .next t.collect := by rw [run, collectNext_next]
  · rw [State.withFetchWord, imageOfTableWord_72]

/-- A step on an issued request answers it with the response it has by itself (R46, R50). -/
theorem step_eq_served {s : State} {r : Request} {rest : List Request} (h : s.pending = r :: rest) :
    step s = .next { ports := r, outs := respond r, pending := rest, served := respond r :: s.served } := by
  rw [step_issued h, exec_decodeRequest, State.answer_eq, collectNext_next]
  rfl

/-! ### All the issued requests -/

/-- As many steps as there are issued requests serve them all, in order (R50). -/
theorem run_serves_pending {reqs : List Request} {s : State} (h : s.pending = reqs) :
    ∃ t : State, core.run reqs.length s = .next t ∧ t.pending = [] ∧
      t.served = (reqs.map respond).reverse ++ s.served ∧ (s.Settled → t.Settled) := by
  induction reqs generalizing s with
  | nil => exact ⟨s, rfl, h, rfl, id⟩
  | cons r rest ih =>
    obtain ⟨t, hrun, hpending, hserved, hsettled⟩ :=
      ih (s := { ports := r, outs := respond r, pending := rest, served := respond r :: s.served }) rfl
    have hrun' := (run_succ core rest.length _ _ (step_eq_served h)).trans hrun
    refine ⟨t, hrun', hpending, ?_, fun _ => hsettled rfl⟩
    simp [hserved]

/-- Settles O39, by induction on the issued requests. -/
theorem runServesRequestsInIssueOrder : Obligations.RunServesRequestsInIssueOrder :=
  fun _ => run_serves_pending rfl

/-! ### Register transactions on the wire -/

/-- Only two data bytes compose to a word (R44). -/
theorem rawWord_eq_none {bytes : List Byte} (h : bytes.length ≠ 2) : rawWord bytes = none := by
  unfold rawWord
  split
  · exact absurd rfl h
  · rfl

/-- Settles O26: the bytes and the word of a transaction are those UNPACK.BE and PACK.BE answer. -/
theorem wireTransactionsAreBigEndian : Obligations.WireTransactionsAreBigEndian :=
  ⟨fun _ => rawWord_eq_none, fun _ _ w b0 b1 s =>
    ⟨⟨_, exec_unpackBe w s, rfl, highByte_toNat w, lowByte_toNat w⟩, rfl,
      _, composeBytes b0 b1, exec_packBe b0 b1 s, rfl, rfl, composeBytes_toNat b0 b1⟩⟩

end Sys2Proof.Machine
end

section
/-! PROOFS. Ports and image (30_encoding.md R60, R63): they agree but for the two ignored bits 14:13.
The widths of appended ports stay sums here (`-Nat.reduceAdd`): the library's lemmas on appended words match them. -/

namespace Sys2Proof

/-- Every port is read back from the image it is written to. -/
@[simp] theorem Request.ofImage_toImage (r : Request) : Request.ofImage r.toImage = r := by
  have bits (start len : Nat) : r.toImage.extractLsb' start len =
      (r.op ++ r.fsel ++ r.a ++ r.b ++ r.d0 ++ r.d1 ++ r.cRst ++ 0#2 ++ r.cRange ++ r.cAvg ++ r.cVbusct ++ r.cVshct
        ++ r.cMode).extractLsb' start len := rfl
  simp [-Nat.reduceAdd, Request.ofImage, bits, BitVec.extractLsb'_append_eq_of_le,
    BitVec.extractLsb'_append_eq_of_add_le]

/-- A word is put together from its high, middle and low bits. -/
theorem extractLsb'_append_append {high mid low : Nat} (x : BitVec (high + mid + low)) :
    x.extractLsb' (low + mid) high ++ x.extractLsb' low mid ++ x.extractLsb' 0 low = x := by
  rw [BitVec.extractLsb'_append_extractLsb'_eq_extractLsb' rfl]
  exact BitVec.extractLsb'_append_extractLsb'

/-- The ports above the ignored bits write image bits 71:15, those below write bits 12:0. -/
theorem Request.toImage_ofImage_eq_append (img : Image) :
    (Request.ofImage img).toImage = img.extractLsb' 15 57 ++ 0#2 ++ img.extractLsb' 0 13 := by
  have join (start len len' : Nat) :
      img.extractLsb' (start + len) len' ++ img.extractLsb' start len = img.extractLsb' start (len' + len) :=
    BitVec.extractLsb'_append_extractLsb'_eq_extractLsb' rfl
  rw [← join 15 1, ← join 16 8, ← join 24 8, ← join 32 16, ← join 48 16, ← join 64 4,
    ← join 0 12, ← join 0 9, ← join 0 6, ← join 0 3]
  simp [-Nat.reduceAdd, Request.toImage, Request.ofImage, BitVec.append_assoc]

/-- Clearing bits 14:13 keeps the bits above and below them. -/
theorem and_not_ignoredBits (img : Image) :
    img &&& ~~~0x6000#72 = img.extractLsb' 15 57 ++ 0#2 ++ img.extractLsb' 0 13 := by
  have parts : img = img.extractLsb' 15 57 ++ img.extractLsb' 13 2 ++ img.extractLsb' 0 13 :=
    (extractLsb'_append_append (high := 57) (mid := 2) (low := 13) img).symm
  have mask : ~~~0x6000#72 = BitVec.allOnes 57 ++ 0#2 ++ BitVec.allOnes 13 := by decide
  calc img &&& ~~~0x6000#72
      = (img.extractLsb' 15 57 ++ img.extractLsb' 13 2 ++ img.extractLsb' 0 13) &&&
          (BitVec.allOnes 57 ++ 0#2 ++ BitVec.allOnes 13) := by rw [← parts, ← mask]
    _ = img.extractLsb' 15 57 ++ 0#2 ++ img.extractLsb' 0 13 := by
      rw [BitVec.and_append, BitVec.and_append, BitVec.and_allOnes, BitVec.and_allOnes, BitVec.and_zero]

/-- The ports of an image, written back, are the image with bits 14:13 cleared (R60, R63). -/
theorem Request.toImage_ofImage (img : Image) : (Request.ofImage img).toImage = img &&& ~~~0x6000#72 :=
  (Request.toImage_ofImage_eq_append img).trans (and_not_ignoredBits img).symm

/-- Settles O46: reading and writing the ports are inverse but for the ignored bits. -/
theorem imageAndPortsAgreeButForTwoIgnoredBits : Obligations.ImageAndPortsAgreeButForTwoIgnoredBits :=
  ⟨Request.toImage_ofImage, Request.ofImage_toImage⟩

end Sys2Proof
end

section
/-! PROOFS. Operation and image (30_encoding.md R61, R62): an operation is read back from its image, and an image is
the operation's own on the bits it reads. -/

namespace Sys2Proof

/-- An operation is read back from its image (R60, R61). -/
@[simp] theorem decodeImage_encode (i : Instr) : decodeImage (encode i) = i := by
  rw [decodeImage, encode, Request.ofImage_toImage, decodeRequest_encodeRequest]

/-- Settles O43: the bytes of an image decode as the image does. -/
theorem decodeUndoesEncode : Obligations.DecodeUndoesEncode := fun i =>
  ⟨decodeImage_encode i, by rw [decode_bytesOfImage, decodeImage_encode]⟩

/-! ### The bits an operation reads (R61) -/

/-- Each port of the one record cut by the same port of the other. -/
def Request.masked (r m : Request) : Request where
  op := r.op &&& m.op
  fsel := r.fsel &&& m.fsel
  a := r.a &&& m.a
  b := r.b &&& m.b
  d0 := r.d0 &&& m.d0
  d1 := r.d1 &&& m.d1
  cMode := r.cMode &&& m.cMode
  cVshct := r.cVshct &&& m.cVshct
  cVbusct := r.cVbusct &&& m.cVbusct
  cAvg := r.cAvg &&& m.cAvg
  cRange := r.cRange &&& m.cRange
  cRst := r.cRst &&& m.cRst

/-- Masking an image masks each of its ports. -/
theorem Request.ofImage_and (img mask : Image) :
    Request.ofImage (img &&& mask) = (Request.ofImage img).masked (.ofImage mask) := by
  simp only [Request.ofImage, Request.masked, BitVec.extractLsb'_and]

/-- The ports an operation reads, all ones; every other port is 0 (R61). -/
def Instr.readPorts (i : Instr) : Request :=
  match i with
  | .decVbus _ | .decIshunt _ | .encCal _ | .unpackBe _ =>
    { Request.blank (BitVec.allOnes 4) with a := BitVec.allOnes 16 }
  | .encConfig _ _ _ _ _ _ =>
    { Request.blank (BitVec.allOnes 4) with
      cMode := BitVec.allOnes 3, cVshct := BitVec.allOnes 3, cVbusct := BitVec.allOnes 3, cAvg := BitVec.allOnes 3,
      cRange := BitVec.allOnes 1, cRst := BitVec.allOnes 1 }
  | .getf _ _ => { Request.blank (BitVec.allOnes 4) with fsel := BitVec.allOnes 4, a := BitVec.allOnes 16 }
  | .setf _ _ _ =>
    { Request.blank (BitVec.allOnes 4) with fsel := BitVec.allOnes 4, a := BitVec.allOnes 16, b := BitVec.allOnes 16 }
  | .packBe _ _ => { Request.blank (BitVec.allOnes 4) with d0 := BitVec.allOnes 8, d1 := BitVec.allOnes 8 }
  | .illegalOp0x0 | .illegalOp0x9 | .illegalOp0xA | .illegalOp0xB | .illegalOp0xC | .illegalOp0xD | .illegalOp0xE
  | .illegalOp0xF => Request.blank (BitVec.allOnes 4)

/-- The image bits an operation reads are those of the ports it reads. -/
theorem Instr.toImage_readPorts (i : Instr) : i.readPorts.toImage = i.readMask := by
  cases i <;> rw [Instr.readPorts, Instr.readMask] <;> rfl

/-- The request an operation encodes to has the ports the operation reads, and 0 in place of the others (R61, R79). -/
theorem encodeRequest_decodeRequest (r : Request) :
    encodeRequest (decodeRequest r) = r.masked (decodeRequest r).readPorts := by
  have op_eq := opcode_decodeRequest r
  unfold decodeRequest at op_eq ⊢
  -- each opcode's case: the ports read are kept by their ones, the others are cut to 0
  split at op_eq <;>
    simp only [encodeRequest, Request.blank, Request.masked, Instr.readPorts, op_eq, FieldSel.code_ofCode,
      BitVec.and_allOnes, BitVec.ofNat_eq_ofNat, BitVec.and_zero]

/-- Settles O44: the image cut to the bits the operation reads has the ports the operation encodes to, and no ignored
bit. -/
theorem encodeUndoesDecodeOnTheReadBits : Obligations.EncodeUndoesDecodeOnTheReadBits := by
  intro img
  have ports : encodeRequest (decodeImage img) = .ofImage (img &&& (decodeImage img).readMask) := by
    rw [Request.ofImage_and, ← Instr.toImage_readPorts, Request.ofImage_toImage]
    exact encodeRequest_decodeRequest (.ofImage img)
  have unread : (decodeImage img).readMask &&& ~~~0x6000#72 = (decodeImage img).readMask := by
    rw [← Instr.toImage_readPorts, ← Request.toImage_ofImage, Request.ofImage_toImage]
  rw [encode, ports, Request.toImage_ofImage, BitVec.and_assoc, unread]

/-! ### The spec's vectors (95_test_vectors.md section 2) -/

/-- Settles O48, by running the decoder on each image. -/
theorem listedImagesDecodeToTheirOperations : Obligations.ListedImagesDecodeToTheirOperations := by
  unfold Obligations.ListedImagesDecodeToTheirOperations
  decide

end Sys2Proof
end

section
/-! PROOFS. The rows of the opcode table (30_encoding.md R62): a row covers the images of its opcode. -/

namespace Sys2Proof

/-- A mask of the four bits 71:68 keeps an image's opcode port. -/
theorem and_opcodeMask (img : Image) : img &&& (0xF#4 ++ 0#68) = img.extractLsb' 68 4 ++ 0#68 := by
  have parts : img = img.extractLsb' 68 4 ++ img.extractLsb' 0 68 :=
    (BitVec.extractLsb'_append_extractLsb' (w := 4) (len := 68)).symm
  calc img &&& (0xF#4 ++ 0#68)
      = (img.extractLsb' 68 4 ++ img.extractLsb' 0 68) &&& (BitVec.allOnes 4 ++ 0#68) := by rw [← parts]; rfl
    _ = img.extractLsb' 68 4 ++ 0#68 := by rw [BitVec.and_append, BitVec.and_allOnes, BitVec.and_zero]

/-- Every row fixes the opcode bits and no other. -/
theorem opcodeTable_fixes_opcode : ∀ row ∈ opcodeTable,
    row.mask = 0xF#4 ++ 0#68 ∧ row.pattern = row.pattern.extractLsb' 68 4 ++ 0#68 := by
  decide

/-- A row covers the images whose opcode port is the row's opcode. -/
theorem covers_eq {row : OpcodeRow} (hrow : row ∈ opcodeTable) (img : Image) :
    row.covers img = ((Request.ofImage img).op == row.pattern.extractLsb' 68 4) := by
  obtain ⟨hmask, hpattern⟩ := opcodeTable_fixes_opcode row hrow
  calc row.covers img
      = (img.extractLsb' 68 4 ++ 0#68 == row.pattern.extractLsb' 68 4 ++ 0#68) := by
        rw [OpcodeRow.covers, hmask, and_opcodeMask, ← hpattern]
    _ = ((Request.ofImage img).op == row.pattern.extractLsb' 68 4) := by
        rw [Bool.eq_iff_iff, beq_iff_eq, beq_iff_eq, BitVec.append_left_inj, Request.ofImage]

/-- Exactly one row has the opcode of an operation, and it has the operation's mnemonic. -/
theorem opcodeTable_rows_of_opcode (i : Instr) :
    (opcodeTable.filter (fun row => i.opcode == row.pattern.extractLsb' 68 4)).map OpcodeRow.mnemonic =
      [i.mnemonic] := by
  cases i <;> rfl

/-- Settles O45: the rows that cover an image are those of its operation's opcode. -/
theorem everyImageBelongsToItsOperationsRow : Obligations.EveryImageBelongsToItsOperationsRow := by
  intro img
  have op_eq : (Request.ofImage img).op = (decodeImage img).opcode := (opcode_decodeRequest _).symm
  rw [List.filter_congr fun row hrow => covers_eq hrow img, op_eq, opcodeTable_rows_of_opcode]

end Sys2Proof
end

section
/-! PROOFS. Which byte strings are an image (30_encoding.md R60; log entry 5). -/

namespace Sys2Proof

/-- A byte string of another length is rejected with its length. -/
theorem imageOfBytes_wrongLength {bs : List Byte} (h : bs.length ≠ 9) :
    imageOfBytes bs = .error (.wrongLength bs.length) := by
  unfold imageOfBytes
  split
  · exact absurd rfl h
  · rfl

/-- Nine bytes are the bytes of an image: the one they write. -/
theorem exists_bytesOfImage_eq {bs : List Byte} (h : bs.length = 9) : ∃ img, bytesOfImage img = bs := by
  match bs, h with
  | [x8, x7, x6, x5, x4, x3, x2, x1, x0], _ =>
    refine ⟨x8 ++ x7 ++ x6 ++ x5 ++ x4 ++ x3 ++ x2 ++ x1 ++ x0, ?_⟩
    have bits (start len : Nat) :
        BitVec.extractLsb' (n := 72) start len (x8 ++ x7 ++ x6 ++ x5 ++ x4 ++ x3 ++ x2 ++ x1 ++ x0) =
          (x8 ++ x7 ++ x6 ++ x5 ++ x4 ++ x3 ++ x2 ++ x1 ++ x0).extractLsb' start len := rfl
    simp [-Nat.reduceAdd, bytesOfImage, bits, BitVec.extractLsb'_append_eq_of_le,
      BitVec.extractLsb'_append_eq_of_add_le]

/-- Settles O47, by the length. -/
theorem onlyNineByteStringsDecode : Obligations.OnlyNineByteStringsDecode := by
  refine ⟨fun bs h => ?_, fun bs h => ?_⟩
  · rw [decode, imageOfBytes_wrongLength h]
  · obtain ⟨img, rfl⟩ := exists_bytesOfImage_eq h
    exact ⟨img, rfl, decode_bytesOfImage img⟩

end Sys2Proof
end

section
/-! PROOFS. The assembler (30_encoding.md R79, R80): what a line that assembles names, and what a pseudo-instruction
stands for. -/

namespace Sys2Proof.Machine

/-- The operation a mnemonic names is a legal one: it has an assigned opcode, and a field where it selects one. -/
theorem CoreMnemonic.instr_wellFormed {c : CoreMnemonic} {field : Option Field} {v : OperandName → Nat} {i : Instr}
    (h : c.instr field v = .ok i) : i.wellFormed = true := by
  unfold CoreMnemonic.instr at h
  split at h <;> cases h <;> rfl

/-- A line that assembles names one operation, a legal one, and gives its request. -/
theorem assemble_ok {env : Env} {l : AsmLine} {r : Request} (h : assemble env l = .ok r) :
    ∃ i : Instr, i.wellFormed = true ∧ r = encodeRequest i := by
  unfold assemble at h
  split at h
  · cases h
  · split at h
    · cases h
    · split at h
      · cases h
      · rename_i i hi
        cases h
        exact ⟨i, CoreMnemonic.instr_wellFormed hi, rfl⟩

/-- Settles O49: the request of an operation decodes to it. -/
theorem assembledLinesAreLegalRequests : Obligations.AssembledLinesAreLegalRequests := by
  intro env l r h
  obtain ⟨i, hwf, rfl⟩ := assemble_ok h
  rw [decodeRequest_encodeRequest]
  exact ⟨hwf, rfl⟩

/-- A pseudo-instruction assembles to the request of the line it stands for. -/
theorem assemble_pseudo {p : Pseudo} {field : Option Field} {operands : List (OperandName × Arg)} {c : CoreMnemonic}
    {field' : Option Field} {operands' : List (OperandName × Arg)}
    (h : p.expand field operands = .ok (c, field', operands')) (env : Env) (result : Option (String × OutPort)) :
    assemble env ⟨.pseudo p, field, operands, result⟩ = assemble env ⟨.core c, field', operands', result⟩ := by
  simp only [assemble, Mnemonic.expand, h]

/-- Settles O50: a pseudo-instruction is its expansion, and those of the boot words have no free operand. -/
theorem pseudoInstructionsExpandToOneRequest : Obligations.PseudoInstructionsExpandToOneRequest := by
  intro env x result
  refine ⟨?_, ?_, assemble_pseudo rfl env result, assemble_pseudo rfl env result, assemble_pseudo rfl env result⟩
  · rw [assemble_pseudo (p := .calBoot) rfl]; rfl
  · rw [assemble_pseudo (p := .cfgBoot) rfl]; rfl

end Sys2Proof.Machine
end

section
/-! PROOFS. The field map (30_encoding.md R70, R71), and the reserved bits of the configuration word (R73). -/

namespace Sys2Proof.Machine

/-- Settles O21, row by row. -/
theorem fieldMapIsTheSpecsTable : Obligations.FieldMapIsTheSpecsTable := by
  unfold Obligations.FieldMapIsTheSpecsTable
  decide

/-- Settles O22: each bit of each covered word is looked up in the masks of the word's fields. -/
theorem fieldsPartitionTheirWords : Obligations.FieldsPartitionTheirWords := by
  refine ⟨?_, rfl, rfl, rfl⟩
  decide

/-- A host may write the configuration words whose bits 14:13 are zero (R73). -/
theorem writeAllowed_configuration {w : Word} (h : w.extractLsb' 13 2 = 0) : writeAllowed .configuration w = true := by
  have parts : w = w.extractLsb' 15 1 ++ w.extractLsb' 13 2 ++ w.extractLsb' 0 13 :=
    (extractLsb'_append_append (high := 1) (mid := 2) (low := 13) w).symm
  have masked : w &&& 0x6000#16 = 0 := by
    calc w &&& 0x6000#16
        = (w.extractLsb' 15 1 ++ w.extractLsb' 13 2 ++ w.extractLsb' 0 13) &&& (0#1 ++ 3#2 ++ 0#13) := by
          rw [← parts]; rfl
      _ = 0 := by rw [BitVec.and_append, BitVec.and_append, h, BitVec.and_zero, BitVec.and_zero]; rfl
  rw [writeAllowed, masked, beq_self_eq_true]

/-- ENC.CONFIG gives words whose bits 14:13 are zero (41_encode.md R121). -/
theorem extractLsb'_packConfig_reserved (mode vshct vbusct avg : BitVec 3) (range rst : BitVec 1) :
    (packConfig mode vshct vbusct avg range rst).extractLsb' 13 2 = 0 := by
  have bits : (packConfig mode vshct vbusct avg range rst).extractLsb' 13 2 =
      (rst ++ 0#2 ++ range ++ avg ++ vbusct ++ vshct ++ mode).extractLsb' 13 2 := rfl
  simp [-Nat.reduceAdd, bits, BitVec.extractLsb'_append_eq_of_le, BitVec.extractLsb'_append_eq_of_add_le]

/-- Settles O14: SETF CFG.RSVD of 3 sets the reserved bits of the zero word. -/
theorem encConfigKeepsReservedBitsClearSetfDoesNot : Obligations.EncConfigKeepsReservedBitsClearSetfDoesNot := by
  refine ⟨fun mode vshct vbusct avg range rst s => ?_, fun s => ?_⟩
  · have reserved := extractLsb'_packConfig_reserved mode vshct vbusct avg range rst
    refine ⟨_, exec_encConfig mode vshct vbusct avg range rst s, ?_, ?_⟩
    · rw [Response.ofWord_eq, BitVec.extractLsb'_setWidth_of_le (by decide), reserved]
    · rw [Response.ofWord_eq, BitVec.setWidth_setWidth_of_le _ (by decide), BitVec.setWidth_eq]
      exact writeAllowed_configuration reserved
  · have setsReserved : writeAllowed .configuration (((setField .cfgRsvd 0 3).setWidth 32).setWidth 16) = false := by
      decide
    exact ⟨0, 3, _, rfl, exec_setf_named .cfgRsvd 0 3 s, setsReserved⟩

end Sys2Proof.Machine
end

section
/-! PROOFS. The decode operations DEC.VBUS and DEC.ISHUNT (40_decode.md): the word as an exact rational, rounded once;
the rounding keeps different words apart, so the ends of a range give its bounds. -/

namespace Sys2Proof

/-- From the first normal pattern on the exponent field is not 0 (R13). -/
theorem F32.expo_pos {x : F32} (hs : x.sign = false) (h : 2 ^ 23 ≤ x.toNat) : 0 < x.expo := by
  rw [F32.expo_eq hs]
  omega

/-- For patterns of sign 0 the order of the values is the order of the patterns (R101). -/
theorem F32.toNat_lt_of_units_lt {x y : F32} (hx : x.sign = false) (hy : y.sign = false) (h : x.units < y.units) :
    x.toNat < y.toNat := by
  rcases Nat.lt_trichotomy x.toNat y.toNat with lt | eq | gt
  · exact lt
  · rw [BitVec.eq_of_toNat_eq eq] at h
    exact absurd h (Nat.lt_irrefl _)
  · exact absurd h (F32.units_lt_units hy hx gt).not_gt

/-! ### Rounding depends on the ratio alone -/

/-- A common factor does not change the rounded whole number. -/
theorem roundDiv_mul_right (n d : Nat) {c : Nat} (hc : 0 < c) : roundDiv (n * c) (d * c) = roundDiv n d := by
  have scale (m : Nat) : 2 * (m * c) = 2 * m * c := (Nat.mul_assoc 2 m c).symm
  simp only [roundDiv, Nat.mul_div_mul_right _ _ hc, Nat.mul_mod_mul_right, scale, Nat.mul_lt_mul_right hc]

/-- A common factor does not change the grid. -/
theorem expoStep_mul_right (n d : Nat) {c : Nat} (hc : 0 < c) : expoStep (n * c) (d * c) = expoStep n d := by
  rw [expoStep, expoStep, Nat.mul_div_mul_right _ _ hc]

/-- A common factor of numerator and denominator does not change the rounded value (R13). -/
theorem roundF32_mul_right (sign : Bool) (num den : Nat) {c : Nat} (hc : 0 < c) :
    roundF32 sign (num * c) (den * c) = roundF32 sign num den := by
  rw [roundF32, roundF32, roundUnits, roundUnits, Nat.mul_right_comm num c, expoStep_mul_right _ _ hc,
    Nat.mul_right_comm den c, roundDiv_mul_right _ _ hc]

/-- Equal ratios have the same rounded value (R13). -/
theorem roundF32_eq_of_ratio_eq (sign : Bool) {num den num' den' : Nat} (hd : 0 < den) (hd' : 0 < den')
    (ratio : num * den' = num' * den) : roundF32 sign num den = roundF32 sign num' den' := by
  rw [← roundF32_mul_right sign num den hd', ratio, Nat.mul_comm den, roundF32_mul_right sign num' den' hd]

/-! ### Rounding keeps values apart that differ by more than a grid step -/

/-- The grid step of an exact value is one unit, or a 24-bit significand of steps fits under the value. -/
theorem gridStep_eq_or_two_pow_mul_le (n d : Nat) :
    d * 2 ^ expoStep n d = d ∨ 2 ^ 23 * (d * 2 ^ expoStep n d) ≤ n := by
  rcases Nat.eq_zero_or_pos (expoStep n d) with h0 | hpos
  · exact .inl (by rw [h0, Nat.pow_zero, Nat.mul_one])
  · exact .inr (two_pow_mul_le_of_expoStep_pos hpos)

/-- A rounded value is at most half a grid step away from the exact one (D11). -/
theorem roundF32_units_half_step {num den : Nat} (hd : 0 < den) (h : num < (2 ^ 128 - 2 ^ 103) * den) :
    2 * distance ((roundF32 false num den).units * den) (num * 2 ^ 149) ≤
      den * 2 ^ expoStep (num * 2 ^ 149) den := by
  rw [(roundF32_onGrid hd h).units, Nat.mul_assoc, Nat.mul_comm (2 ^ _) den]
  exact (roundDiv_half_step (by positivity)).1

/-- If the gap between two exact values is more than a unit, and more than one part in `2 ^ 23` of the larger, then
their rounded patterns are in strict order: each rounding moves by less than half the gap. -/
theorem roundF32_toNat_lt {num gap den : Nat} (hd : 0 < den) (h : num + gap < (2 ^ 128 - 2 ^ 103) * den)
    (unit : den < gap * 2 ^ 149) (part : num + gap < 2 ^ 23 * gap) :
    (roundF32 false num den).toNat < (roundF32 false (num + gap) den).toNat := by
  have near := roundF32_units_half_step hd (Nat.lt_of_le_of_lt (Nat.le_add_right num gap) h)
  have near' := roundF32_units_half_step hd h
  have step := gridStep_eq_or_two_pow_mul_le (num * 2 ^ 149) den
  have step' := gridStep_eq_or_two_pow_mul_le ((num + gap) * 2 ^ 149) den
  have units_lt : (roundF32 false num den).units * den < (roundF32 false (num + gap) den).units * den := by
    unfold distance at near near'
    omega
  exact F32.toNat_lt_of_units_lt (roundF32_sign ..) (roundF32_sign ..) (Nat.lt_of_mul_lt_mul_right units_lt)

/-! ### An order of the words that rounding keeps -/

/-- A larger word has a larger pattern. -/
def KeepsWordOrder (f : Word → F32) : Prop := ∀ a b : Word, a.toNat < b.toNat → (f a).toNat < (f b).toNat

theorem KeepsWordOrder.le {f : Word → F32} (hf : KeepsWordOrder f) {a b : Word} (h : a.toNat ≤ b.toNat) :
    (f a).toNat ≤ (f b).toNat := by
  rcases Nat.lt_or_eq_of_le h with lt | eq
  · exact (hf a b lt).le
  · rw [BitVec.eq_of_toNat_eq eq]

theorem KeepsWordOrder.eq_iff {f : Word → F32} (hf : KeepsWordOrder f) {a b : Word} : f a = f b ↔ a = b := by
  refine ⟨fun h => ?_, congrArg f⟩
  rcases Nat.lt_trichotomy a.toNat b.toNat with lt | eq | gt
  · exact absurd (congrArg BitVec.toNat h) (hf a b lt).ne
  · exact BitVec.eq_of_toNat_eq eq
  · exact absurd (congrArg BitVec.toNat h) (hf b a gt).ne'

/-- A word that is not 0 is at least 1. -/
theorem one_le_toNat {a : Word} (h : a ≠ 0) : (1 : Word).toNat ≤ a.toNat :=
  Nat.pos_of_ne_zero fun h0 => h (BitVec.eq_of_toNat_eq h0)

end Sys2Proof

namespace Sys2Proof.Machine

/-- The integer a decode operation converts is exact (R13). -/
theorem toF32_word (a : Word) :
    (toF32 (a.setWidth 32)).sign = false ∧ (toF32 (a.setWidth 32)).finite = true ∧
      (toF32 (a.setWidth 32)).units = a.toNat * 2 ^ 149 := by
  have ha : (a.setWidth 32).toNat = a.toNat := BitVec.toNat_setWidth_of_le (by decide)
  have exact := smallIntegersConvertExactly (a.setWidth 32) (by omega)
  rwa [ha] at exact

/-! ### DEC.VBUS -/

/-- The raw word times the exact value of VBUS_SCALE (R24, R100), rounded. -/
def vbusProduct (a : Word) : F32 := roundF32 false (a.toNat * 13743895) (2 ^ 33)

/-- The binary32 product of DEC.VBUS is the exact product, rounded once (R100). -/
theorem mulF32_vbusScale (a : Word) : mulF32 (toF32 (a.setWidth 32)) vbusScale = vbusProduct a := by
  obtain ⟨hsign, hfinite, hunits⟩ := toF32_word a
  obtain ⟨-, -, scale, -⟩ := constantsAreTheRoundedLiterals
  have ratio : a.toNat * 2 ^ 149 * vbusScale.units * 2 ^ 33 = a.toNat * 13743895 * 2 ^ 298 := by
    calc a.toNat * 2 ^ 149 * vbusScale.units * 2 ^ 33
        = a.toNat * 2 ^ 149 * (vbusScale.units * 2 ^ 33) := Nat.mul_assoc ..
      _ = a.toNat * 13743895 * (2 ^ 149 * 2 ^ 149) := by rw [scale, Nat.mul_mul_mul_comm]
      _ = a.toNat * 13743895 * 2 ^ 298 := by rw [show 298 = 149 + 149 from rfl, Nat.pow_add]
  rw [mulF32_of_finite hfinite rfl, hsign, hunits,
    roundF32_eq_of_ratio_eq _ (by positivity) (by positivity) ratio]
  rfl

/-- DEC.VBUS answers the rounded product and changes nothing but the outputs (R100). -/
theorem exec_decVbus_eq (a : Word) (s : State) :
    exec (.decVbus a) s = .next { s with outs := { y := vbusProduct a, q0 := 0, q1 := 0, ill := 0, cause := 0 } } := by
  rw [exec_decVbus, mulF32_vbusScale, Response.ofF32_eq, State.answer_eq]

theorem vbusProduct_nearestEven (a : Word) : NearestEven (a.toNat * 13743895) (2 ^ 33) (vbusProduct a) :=
  roundF32_nearestEven (by positivity) (by omega)

/-- One step of the raw word is more than a grid step of the products (R100). -/
theorem vbusProduct_keepsWordOrder : KeepsWordOrder vbusProduct := by
  intro a b h
  have gap : b.toNat * 13743895 = a.toNat * 13743895 + (b.toNat - a.toNat) * 13743895 := by omega
  rw [vbusProduct, vbusProduct, gap]
  exact roundF32_toNat_lt (by positivity) (by omega) (by omega) (by omega)

theorem vbusProduct_zero : vbusProduct 0 = 0 := by decide
theorem vbusProduct_one : vbusProduct 1 = 0x3AD1B717#32 := by decide
theorem vbusProduct_0x1000 : vbusProduct 0x1000 = 0x40D1B717#32 := by decide
theorem vbusProduct_0xFFFF : vbusProduct 0xFFFF = 0x42D1B645#32 := by decide

theorem vbusProduct_le (a : Word) : (vbusProduct a).toNat ≤ 0x42D1B645 := by
  have le := vbusProduct_keepsWordOrder.le (b := 0xFFFF) (Nat.le_of_lt_succ a.isLt)
  rwa [vbusProduct_0xFFFF] at le

theorem le_vbusProduct {a : Word} (h : a ≠ 0) : 0x3AD1B717 ≤ (vbusProduct a).toNat := by
  have le := vbusProduct_keepsWordOrder.le (one_le_toNat h)
  rwa [vbusProduct_one] at le

theorem vbusProduct_eq_zero_iff {a : Word} : vbusProduct a = 0 ↔ a = 0 := by
  rw [← vbusProduct_zero, vbusProduct_keepsWordOrder.eq_iff]

/-- Settles O1, by the exact product. -/
theorem decVbusIsNearestEvenProduct : Obligations.DecVbusIsNearestEvenProduct :=
  fun a s => ⟨vbusProduct a, exec_decVbus_eq a s, vbusProduct_nearestEven a⟩

/-- Settles O2: the products of 1 and 0xFFFF bound the others, because rounding keeps the order of the words. -/
theorem decVbusResultsStayInRange : Obligations.DecVbusResultsStayInRange := by
  intro a s
  obtain ⟨hsign, hfinite, -⟩ := vbusProduct_nearestEven a
  refine ⟨_, exec_decVbus_eq a s, hsign, hfinite, vbusProduct_le a, vbusProduct_eq_zero_iff, fun ha => ?_, ?_, ?_⟩
  · have lower := le_vbusProduct ha
    exact ⟨lower, F32.expo_pos hsign (Nat.le_trans (by norm_num) lower)⟩
  · rintro rfl
    exact vbusProduct_one
  · rintro rfl
    exact vbusProduct_0xFFFF

/-- Settles O3, by the distance of the products. -/
theorem decVbusIsMonotoneInTheWholeRawWord : Obligations.DecVbusIsMonotoneInTheWholeRawWord :=
  ⟨fun a b s => ⟨_, _, exec_decVbus_eq a s, exec_decVbus_eq b s, vbusProduct_keepsWordOrder a b⟩,
    fun s => ⟨_, exec_decVbus_eq 0x1000 s, vbusProduct_0x1000⟩⟩

/-! ### DEC.ISHUNT -/

/-- The raw word over the exact value of ISHUNT_DIV (R24, R105), rounded. -/
def ishuntQuotient (a : Word) : F32 := roundF32 false a.toNat 3970

/-- The binary32 quotient of DEC.ISHUNT is the exact quotient, rounded once (R105). -/
theorem divF32_ishuntDiv (a : Word) : divF32 (toF32 (a.setWidth 32)) ishuntDiv = ishuntQuotient a := by
  obtain ⟨hsign, hfinite, hunits⟩ := toF32_word a
  obtain ⟨-, -, -, divisor⟩ := constantsAreTheRoundedLiterals
  have nonzero : ishuntDiv.units ≠ 0 := by rw [divisor]; positivity
  rw [divF32_of_finite hfinite rfl nonzero, hsign, hunits, divisor, roundF32_mul_right _ _ _ (by positivity)]
  rfl

/-- DEC.ISHUNT answers +0.0 or the rounded quotient and changes nothing but the outputs (R105, R106). -/
theorem exec_decIshunt_eq (a : Word) (s : State) :
    exec (.decIshunt a) s =
      .next { s with outs := { y := if a.getLsbD 15 then 0 else ishuntQuotient a,
                               q0 := 0, q1 := 0, ill := 0, cause := 0 } } := by
  rw [exec_decIshunt, divF32_ishuntDiv, signBit, Response.ofF32_eq, State.answer_eq]

theorem ishuntQuotient_nearestEven (a : Word) : NearestEven a.toNat 3970 (ishuntQuotient a) :=
  roundF32_nearestEven (by positivity) (by omega)

/-- One step of the raw word is more than a grid step of the quotients (R105). -/
theorem ishuntQuotient_keepsWordOrder : KeepsWordOrder ishuntQuotient := by
  intro a b h
  rw [ishuntQuotient, ishuntQuotient, ← Nat.add_sub_cancel' h.le]
  exact roundF32_toNat_lt (by positivity) (by omega) (by omega) (by omega)

theorem ishuntQuotient_zero : ishuntQuotient 0 = 0 := by decide
theorem ishuntQuotient_one : ishuntQuotient 1 = 0x39840FFE#32 := by decide
theorem ishuntQuotient_0x0032 : ishuntQuotient 0x0032 = 0x3C4E58FD#32 := by decide
theorem ishuntQuotient_0x0F82 : ishuntQuotient 0x0F82 = 0x3F800000#32 := by decide
theorem ishuntQuotient_0x7FFF : ishuntQuotient 0x7FFF = 0x41040EF6#32 := by decide

theorem ishuntQuotient_le {a : Word} (h : a.getLsbD 15 = false) : (ishuntQuotient a).toNat ≤ 0x41040EF6 := by
  have below : a.toNat < 2 ^ 15 := BitVec.toNat_lt_of_msb_false ((BitVec.msb_eq_getLsbD_last a).trans h)
  have le := ishuntQuotient_keepsWordOrder.le (b := 0x7FFF) (Nat.le_of_lt_succ below)
  rwa [ishuntQuotient_0x7FFF] at le

theorem le_ishuntQuotient {a : Word} (h : a ≠ 0) : 0x39840FFE ≤ (ishuntQuotient a).toNat := by
  have le := ishuntQuotient_keepsWordOrder.le (one_le_toNat h)
  rwa [ishuntQuotient_one] at le

theorem ishuntQuotient_eq_zero_iff {a : Word} : ishuntQuotient a = 0 ↔ a = 0 := by
  rw [← ishuntQuotient_zero, ishuntQuotient_keepsWordOrder.eq_iff]

/-- Settles O4, by bit 15 and the exact quotient. -/
theorem decIshuntIsClampedNearestEvenQuotient : Obligations.DecIshuntIsClampedNearestEvenQuotient := by
  refine ⟨fun a s => ⟨_, exec_decIshunt_eq a s, fun negative => if_pos negative, fun clear => ?_⟩,
    fun s p hp => ⟨_, exec_decIshunt_eq p.1 s, ?_⟩⟩
  · rw [clear]
    exact ishuntQuotient_nearestEven a
  · fin_cases hp
    · exact ishuntQuotient_zero
    · exact ishuntQuotient_0x0F82
    · exact ishuntQuotient_0x7FFF
    · rfl -- 0x8000
    · rfl -- 0xFFFF
    · exact ishuntQuotient_one
    · exact ishuntQuotient_0x0032

/-- Settles O5: with bit 15 clear the quotients of 1 and 0x7FFF bound those of the words that are not 0. -/
theorem decIshuntResultsStayInRange : Obligations.DecIshuntResultsStayInRange := by
  intro a s
  refine ⟨_, exec_decIshunt_eq a s, ?_⟩
  cases bit15 : a.getLsbD 15 with
  | true => simp [F32.sign, F32.finite, F32.expo]
  | false =>
    obtain ⟨hsign, hfinite, -⟩ := ishuntQuotient_nearestEven a
    refine ⟨hsign, hfinite, ishuntQuotient_le bit15, ?_, fun hy => ?_⟩
    · exact ishuntQuotient_eq_zero_iff.trans (or_iff_left Bool.false_ne_true).symm
    · have lower := le_ishuntQuotient (mt ishuntQuotient_eq_zero_iff.2 hy)
      exact F32.expo_pos hsign (Nat.le_trans (by norm_num) lower)

end Sys2Proof.Machine
end

section
/-! PROOFS. The encode operations ENC.CONFIG and ENC.CAL (41_encode.md): each field of a configuration word is a slice of
it, and the slices with the reserved bits put the word together again. -/

namespace Sys2Proof

/-- Zero extension keeps different words apart (R26). -/
theorem setWidth_word_inj {v w : Word} : v.setWidth 32 = w.setWidth 32 ↔ v = w := by
  refine ⟨fun h => ?_, congrArg _⟩
  have low := congrArg (BitVec.setWidth 16) h
  simpa using low

/-- A field's value is its slice of the word (R78). -/
theorem getField_eq_extractLsb' (f : Field) (w : Word) :
    getField f w = (w.extractLsb' f.lsb f.width).setWidth 16 := by
  apply BitVec.eq_of_getLsbD_eq
  intro i hi
  rw [getLsbD_getField, BitVec.getLsbD_setWidth, BitVec.getLsbD_extractLsb', decide_eq_true hi, Bool.true_and]

/-- A configuration word has each field at its bits (R120; D7). -/
theorem extractLsb'_of_packConfig_eq {mode vshct vbusct avg : BitVec 3} {range rst : BitVec 1} {w : Word}
    (h : packConfig mode vshct vbusct avg range rst = w) :
    w.extractLsb' 0 3 = mode ∧ w.extractLsb' 3 3 = vshct ∧ w.extractLsb' 6 3 = vbusct ∧ w.extractLsb' 9 3 = avg ∧
      w.extractLsb' 12 1 = range ∧ w.extractLsb' 15 1 = rst := by
  have bits (start len : Nat) : w.extractLsb' start len =
      (rst ++ 0#2 ++ range ++ avg ++ vbusct ++ vshct ++ mode).extractLsb' start len := by rw [← h]; rfl
  simp [-Nat.reduceAdd, bits, BitVec.extractLsb'_append_eq_of_le, BitVec.extractLsb'_append_eq_of_add_le]

/-- A word whose bits 14:13 are zero is the configuration word of its own slices (R122). -/
theorem packConfig_extractLsb' {w : Word} (reserved : w.extractLsb' 13 2 = 0) :
    packConfig (w.extractLsb' 0 3) (w.extractLsb' 3 3) (w.extractLsb' 6 3) (w.extractLsb' 9 3) (w.extractLsb' 12 1)
      (w.extractLsb' 15 1) = w := by
  have join (start len len' : Nat) :
      w.extractLsb' (start + len) len' ++ w.extractLsb' start len = w.extractLsb' start (len' + len) :=
    BitVec.extractLsb'_append_extractLsb'_eq_extractLsb' rfl
  calc packConfig (w.extractLsb' 0 3) (w.extractLsb' 3 3) (w.extractLsb' 6 3) (w.extractLsb' 9 3)
        (w.extractLsb' 12 1) (w.extractLsb' 15 1)
      = w.extractLsb' 15 1 ++ w.extractLsb' 13 2 ++ w.extractLsb' 12 1 ++ w.extractLsb' 9 3 ++ w.extractLsb' 6 3 ++
          w.extractLsb' 3 3 ++ w.extractLsb' 0 3 := by rw [reserved]; rfl
    _ = w.extractLsb' 0 16 := by
      rw [join 13 2 1, join 12 1 3, join 9 3 4, join 6 3 7, join 3 3 10, join 0 3 13]
    _ = w := BitVec.extractLsb'_eq_self

/-- ENC.CONFIG's packing as a bijection from the field values to the words whose bits 14:13 are zero (R122). -/
def configWordEquiv :
    BitVec 3 × BitVec 3 × BitVec 3 × BitVec 3 × BitVec 1 × BitVec 1 ≃ { w : Word // w.extractLsb' 13 2 = 0 } where
  toFun := fun (mode, vshct, vbusct, avg, range, rst) =>
    ⟨packConfig mode vshct vbusct avg range rst,
      Machine.extractLsb'_packConfig_reserved mode vshct vbusct avg range rst⟩
  invFun := fun ⟨w, _⟩ =>
    (w.extractLsb' 0 3, w.extractLsb' 3 3, w.extractLsb' 6 3, w.extractLsb' 9 3, w.extractLsb' 12 1,
      w.extractLsb' 15 1)
  left_inv := fun _ => by simp only [extractLsb'_of_packConfig_eq rfl]
  right_inv := fun ⟨_, reserved⟩ => Subtype.ext (packConfig_extractLsb' reserved)

/-- The words whose bits 14:13 are zero are as many as the choices of field values (R122). -/
theorem card_configWord : Nat.card { w : Word // w.extractLsb' 13 2 = 0 } = 16384 := by
  have patterns (n : Nat) : Nat.card (BitVec n) = 2 ^ n :=
    (Nat.card_congr BitVec.equivFin.toEquiv).trans (Nat.card_fin _)
  calc Nat.card { w : Word // w.extractLsb' 13 2 = 0 }
      = Nat.card (BitVec 3 × BitVec 3 × BitVec 3 × BitVec 3 × BitVec 1 × BitVec 1) :=
        (Nat.card_congr configWordEquiv).symm
    _ = 2 ^ 3 * (2 ^ 3 * (2 ^ 3 * (2 ^ 3 * (2 ^ 1 * 2 ^ 1)))) := by simp only [Nat.card_prod, patterns]
    _ = 16384 := by norm_num

end Sys2Proof

namespace Sys2Proof.Machine

/-! ### ENC.CONFIG -/

/-- The result of ENC.CONFIG is the configuration word of its fields, zero-extended (R120). -/
theorem respond_encConfig_y (mode vshct vbusct avg : BitVec 3) (range rst : BitVec 1) :
    (respond (encodeRequest (.encConfig mode vshct vbusct avg range rst))).y =
      (packConfig mode vshct vbusct avg range rst).setWidth 32 := by
  rw [respond, decodeRequest_encodeRequest, exec_encConfig]
  rfl

/-- What the host reads with GETF is the field's slice of the word (R140). -/
theorem getfResult_eq_extractLsb' (f : Field) (w : Word) :
    getfResult f w = (w.extractLsb' f.lsb f.width).setWidth 16 := by
  rw [← getField_eq_extractLsb', getfResult, respond, decodeRequest_encodeRequest, exec_getf_named]
  exact BitVec.setWidth_setWidth_of_le _ (by decide)

/-- Settles O11: the six slices of a configuration word are the field values, and with the reserved bits they are all of
the word. -/
theorem encConfigImageIsTheReservedClearWords : Obligations.EncConfigImageIsTheReservedClearWords := by
  refine ⟨fun w => ⟨fun reserved => ?_, ?_⟩, card_configWord, ?_⟩
  · refine ⟨w.extractLsb' 0 3, w.extractLsb' 3 3, w.extractLsb' 6 3, w.extractLsb' 9 3, w.extractLsb' 12 1,
      w.extractLsb' 15 1, ?_⟩
    rw [respond_encConfig_y, packConfig_extractLsb' reserved]
  · rintro ⟨mode, vshct, vbusct, avg, range, rst, encoded⟩
    rw [respond_encConfig_y, setWidth_word_inj] at encoded
    rw [← encoded]
    exact extractLsb'_packConfig_reserved mode vshct vbusct avg range rst
  · intro mode vshct vbusct avg range rst w encoded
    rw [respond_encConfig_y, setWidth_word_inj] at encoded
    simp only [getfResult_eq_extractLsb', Field.lsb, Field.width, extractLsb'_of_packConfig_eq encoded, and_self]

/-- Settles O10, by the slices of the configuration word. -/
theorem encConfigPlacesEveryField : Obligations.EncConfigPlacesEveryField := by
  intro mode vshct vbusct avg range rst s
  refine ⟨_, exec_encConfig mode vshct vbusct avg range rst s, ?_⟩
  have slice {start len : Nat} (inside : start + len ≤ 32) :=
    BitVec.extractLsb'_setWidth_of_le (b := packConfig mode vshct vbusct avg range rst) inside
  obtain ⟨hMode, hVshct, hVbusct, hAvg, hRange, hRst⟩ :=
    extractLsb'_of_packConfig_eq (w := packConfig mode vshct vbusct avg range rst) rfl
  have reserved := extractLsb'_packConfig_reserved mode vshct vbusct avg range rst
  have upper := extractLsb'_setWidth_word (packConfig mode vshct vbusct avg range rst)
  exact ⟨(slice (by decide)).trans hMode, (slice (by decide)).trans hVshct, (slice (by decide)).trans hVbusct,
    (slice (by decide)).trans hAvg, (slice (by decide)).trans hRange, (slice (by decide)).trans reserved,
    (slice (by decide)).trans hRst, upper⟩

/-! ### ENC.CAL and the boot words -/

/-- Settles O13: zero extension keeps the number. -/
theorem encCalPassesAllSixteenBits : Obligations.EncCalPassesAllSixteenBits := fun a s =>
  ⟨_, exec_encCal a s, BitVec.toNat_setWidth_of_le (by decide)⟩

/-- The boot configuration word (R123). -/
theorem packConfig_boot : packConfig 7 2 2 0 0 0 = 0x0097 := by decide

/-- The calibration value of the boot calibration word (R126). -/
theorem getField_calValue_boot : getField .calValue 0x000A = 10 := by decide

/-- Settles O12: the operations answer the same word from every state. -/
theorem bootWordsAre0x0097And0x000A : Obligations.BootWordsAre0x0097And0x000A := by
  refine fun s => ⟨?_, ?_, ?_⟩
  · rw [exec_encConfig, packConfig_boot]; rfl
  · rw [exec_encCal]; rfl
  · rw [exec_getf_named, getField_calValue_boot]; rfl

end Sys2Proof.Machine
end

section
/-! PROOFS. The field accessors GETF and SETF (42_field.md): what they read and write bit by bit, and that setting each
field of a word to what it is in `a` takes the fields' bits from `a`, in whatever order. -/

namespace Sys2Proof

/-- Zero extension keeps the word's bits and adds none (R26). -/
theorem getLsbD_setWidth_word (w : Word) (i : Nat) : (w.setWidth 32).getLsbD i = w.getLsbD i := by
  rw [BitVec.getLsbD_setWidth, Bool.and_eq_right_iff_imp, decide_eq_true_iff]
  exact fun set => Nat.lt_trans (BitVec.lt_of_getLsbD set) (by decide)

/-- A field's value as a number (R78). -/
theorem getField_toNat (f : Field) (a : Word) : (getField f a).toNat = a.toNat / 2 ^ f.lsb % 2 ^ f.width := by
  have fits : f.width ≤ 16 := Nat.le_of_add_left_le f.lsb_add_width_le
  rw [getField_eq_extractLsb', BitVec.toNat_setWidth_of_le fits, BitVec.extractLsb'_toNat, Nat.shiftRight_eq_div_pow]

/-- Fields at the same place read the same bits. -/
theorem getField_eq_of_same_place {f g : Field} (hlsb : f.lsb = g.lsb) (hwidth : f.width = g.width) (a : Word) :
    getField f a = getField g a := by
  rw [getField, hlsb, hwidth, getField]

/-- Fields at the same place replace the same bits. -/
theorem setField_eq_of_same_place {f g : Field} (hlsb : f.lsb = g.lsb) (hwidth : f.width = g.width) (a b : Word) :
    setField f a b = setField g a b := by
  rw [setField, Field.fmask, hlsb, hwidth, setField, Field.fmask]

/-! ### The laws of the accessors (R142) -/

/-- Reading a replaced field gives the new value cut to the width. -/
theorem getField_setField_same (f : Field) (a b : Word) : getField f (setField f a b) = b &&& maskOf f.width := by
  apply BitVec.eq_of_getLsbD_eq
  intro i hi
  rw [getLsbD_getField, getLsbD_setField, BitVec.getLsbD_and, getLsbD_maskOf, decide_eq_true hi, Bool.true_and]
  by_cases inside : i < f.width
  · rw [if_pos ⟨Nat.le_add_right _ _, Nat.add_lt_add_left inside _⟩, Nat.add_sub_cancel_left, Bool.and_comm]
  · rw [decide_eq_false inside, Bool.false_and, Bool.and_false]

/-- Setting a field to what it is in `a` takes the field's bits from `a`. -/
theorem getLsbD_setField_getField (f : Field) (w a : Word) (i : Nat) :
    (setField f w (getField f a)).getLsbD i = if f.fmask.getLsbD i then a.getLsbD i else w.getLsbD i := by
  rw [getLsbD_setField, getLsbD_fmask]
  by_cases inside : f.lsb ≤ i ∧ i < f.lsb + f.width
  · obtain ⟨hlow, hhigh⟩ := inside
    have below : i - f.lsb < f.width := by omega
    have place : f.lsb + (i - f.lsb) = i := Nat.add_sub_of_le hlow
    simp [hlow, hhigh, getLsbD_getField, below, place]
  · simp [inside]

/-- Setting a field to what it already is changes nothing. -/
theorem setField_getField (f : Field) (a : Word) : setField f a (getField f a) = a := by
  apply BitVec.eq_of_getLsbD_eq
  intro i _
  rw [getLsbD_setField_getField, ite_self]

/-- Replacing a field leaves a field that shares no bit with it alone. -/
theorem getField_setField_of_disjoint {f g : Field} (disjoint : g.fmask &&& f.fmask = 0) (a b : Word) :
    getField g (setField f a b) = getField g a := by
  apply BitVec.eq_of_getLsbD_eq
  intro i _
  rw [getLsbD_getField, getLsbD_getField]
  by_cases inG : i < g.width
  · have outsideF : ¬ (f.lsb ≤ g.lsb + i ∧ g.lsb + i < f.lsb + f.width) := by
      have bit := congrArg (BitVec.getLsbD · (g.lsb + i)) disjoint
      simpa [getLsbD_fmask, inG] using bit
    rw [getLsbD_setField, if_neg outsideF]
  · rw [decide_eq_false inG, Bool.false_and, Bool.false_and]

/-- The word `w` with each of the fields set, in turn, to what it is in `a` (R142). -/
def copyFields (fields : List Field) (a w : Word) : Word := fields.foldl (fun w g => setField g w (getField g a)) w

/-- Bit i of the copy is `a`'s where one of the fields has it, and the old word's elsewhere: the order plays no part. -/
theorem getLsbD_copyFields (fields : List Field) (a w : Word) (i : Nat) :
    (copyFields fields a w).getLsbD i =
      if ∃ g ∈ fields, g.fmask.getLsbD i = true then a.getLsbD i else w.getLsbD i := by
  induction fields generalizing w with
  | nil => simp [copyFields]
  | cons f fields ih =>
    have step : copyFields (f :: fields) a w = copyFields fields a (setField f w (getField f a)) := rfl
    rw [step, ih, getLsbD_setField_getField]
    by_cases inF : f.fmask.getLsbD i = true <;> simp [inF]

/-- Fields that have every bit of a word copy all of it. -/
theorem copyFields_of_cover {fields : List Field} (cover : ∀ i < 16, ∃ g ∈ fields, g.fmask.getLsbD i = true)
    (a w : Word) : copyFields fields a w = a := by
  apply BitVec.eq_of_getLsbD_eq
  intro i hi
  rw [getLsbD_copyFields, if_pos (cover i hi)]

end Sys2Proof

namespace Sys2Proof.Machine

/-! ### GETF -/

/-- Settles O15, by the bits of a field's value; as a number it is a remainder by 2 for a one-bit field, and the quotient
by 8 for BUS.VBUS. -/
theorem getfReadsTheFieldsBits : Obligations.GetfReadsTheFieldsBits := by
  refine ⟨fun f a s => ⟨_, exec_getf_named f a s, fun i => ?_, fun oneBit => ?_, ?_⟩, ?_, fun s => ⟨rfl, rfl⟩⟩
  · rw [getLsbD_setWidth_word, getLsbD_getField]
  · have value : (getField f a).toNat < 2 := by
      rw [getField_toNat, oneBit]
      exact Nat.mod_lt _ (by decide)
    have zeroOrOne : getField f a = 0 ∨ getField f a = 1 := by bv_omega
    exact zeroOrOne.imp (congrArg (BitVec.setWidth 32)) (congrArg (BitVec.setWidth 32))
  · rintro rfl
    have word := a.isLt
    have value : (getField .busVbus a).toNat = a.toNat / 8 % 8192 := getField_toNat .busVbus a
    rw [BitVec.toNat_setWidth_of_le (by decide), value]
    omega
  · rintro sel a s (rfl | rfl)
    · exact exec_getf_reserved0xE a s
    · exact exec_getf_reserved0xF a s

/-! ### SETF -/

/-- Settles O16, by the bits of a word with a field replaced. -/
theorem setfReplacesTheFieldsBits : Obligations.SetfReplacesTheFieldsBits := by
  refine ⟨fun f a b s => ⟨_, exec_setf_named f a b s, fun i => ?_⟩, ?_⟩
  · rw [getLsbD_setWidth_word, getLsbD_setField]
  · rintro sel a b s (rfl | rfl)
    · exact exec_setf_reserved0xE a b s
    · exact exec_setf_reserved0xF a b s

/-! ### The accessors through the machine's responses -/

/-- What the host reads with GETF is the field's value (R140). -/
theorem getfResult_eq_getField (f : Field) (a : Word) : getfResult f a = getField f a := by
  rw [getfResult_eq_extractLsb', getField_eq_extractLsb']

/-- What the host reads with SETF is the word with the field replaced (R141). -/
theorem setfResult_eq_setField (f : Field) (a b : Word) : setfResult f a b = setField f a b := by
  rw [setfResult, respond, decodeRequest_encodeRequest, exec_setf_named]
  exact BitVec.setWidth_setWidth_of_le _ (by decide)

/-- Settles O17, by the laws of the accessors. -/
theorem accessorsObeyTheGetSetLaws : Obligations.AccessorsObeyTheGetSetLaws := by
  intro f g a b
  simp only [getfResult_eq_getField, setfResult_eq_setField]
  exact ⟨getField_setField_same f a b, setField_getField f a, fun disjoint => getField_setField_of_disjoint disjoint a b⟩

/-- The fields of the configuration, bus voltage and calibration words have every bit of their word (R71). -/
theorem exists_field_with_bit {r : RegName} (covered : r = .configuration ∨ r = .busVoltage ∨ r = .calibration) {i : Nat}
    (hi : i < 16) : ∃ g ∈ r.fields, g.fmask.getLsbD i = true := by
  obtain ⟨oneField, -⟩ := fieldsPartitionTheirWords
  have listed : r ∈ [RegName.configuration, .busVoltage, .calibration] := by simpa using covered
  have nonempty := List.length_pos_iff.1 (Nat.lt_of_lt_of_eq Nat.one_pos (oneField r listed ⟨i, hi⟩).symm)
  obtain ⟨g, hg⟩ := List.exists_mem_of_ne_nil _ nonempty
  exact ⟨g, List.mem_filter.1 hg⟩

/-- Settles O18: in every order the fields have every bit of their word. -/
theorem fieldsRebuildTheirWordInAnyOrder : Obligations.FieldsRebuildTheirWordInAnyOrder := by
  intro r fields a covered order
  simp only [getfResult_eq_getField, setfResult_eq_setField]
  refine copyFields_of_cover (fun i hi => ?_) a 0
  obtain ⟨g, hg, bit⟩ := exists_field_with_bit covered hi
  exact ⟨g, order.mem_iff.2 hg, bit⟩

/-! ### ENC.CONFIG by SETF -/

/-- Settles O19: rebuild the configuration word with the reserved field first, which sets no bit. -/
theorem encConfigIsSixSetfs : Obligations.EncConfigIsSixSetfs := by
  intro mode vshct vbusct avg range rst s
  refine ⟨_, exec_encConfig mode vshct vbusct avg range rst s, ?_⟩
  let w := packConfig mode vshct vbusct avg range rst
  have rebuild := fieldsRebuildTheirWordInAnyOrder .configuration
    [.cfgRsvd, .cfgMode, .cfgVshct, .cfgVbusct, .cfgAvg, .cfgAdcrange, .cfgRst] w (.inl rfl) (by decide)
  have reserved : getfResult .cfgRsvd w = 0 := by
    rw [getfResult_eq_extractLsb']
    exact congrArg (BitVec.setWidth 16) (extractLsb'_packConfig_reserved mode vshct vbusct avg range rst)
  have unset : setfResult .cfgRsvd 0 0 = 0 := by decide
  obtain ⟨-, -, recover⟩ := encConfigImageIsTheReservedClearWords
  obtain ⟨hMode, hVshct, hVbusct, hAvg, hRange, hRst⟩ :=
    recover mode vshct vbusct avg range rst w (respond_encConfig_y mode vshct vbusct avg range rst)
  simp only [List.foldl_cons, List.foldl_nil, reserved, unset, hMode, hVshct, hVbusct, hAvg, hRange, hRst] at rebuild
  rw [rebuild]
  exact BitVec.setWidth_setWidth_of_le w (by decide)

/-! ### The fields of bit 15 -/

/-- GETF of two fields at the same place answers the same outcome. -/
theorem exec_getf_eq_of_same_place {f g : Field} (hlsb : f.lsb = g.lsb) (hwidth : f.width = g.width) (a : Word)
    (s : State) : exec (.getf (.named f) a) s = exec (.getf (.named g) a) s := by
  rw [exec_getf_named, exec_getf_named, getField_eq_of_same_place hlsb hwidth]

/-- SETF of two fields at the same place answers the same outcome. -/
theorem exec_setf_eq_of_same_place {f g : Field} (hlsb : f.lsb = g.lsb) (hwidth : f.width = g.width) (a b : Word)
    (s : State) : exec (.setf (.named f) a b) s = exec (.setf (.named g) a b) s := by
  rw [exec_setf_named, exec_setf_named, setField_eq_of_same_place hlsb hwidth]

/-- Settles O20: the three fields are at the same place, bit 15 alone. -/
theorem topBitFieldsAreInterchangeable : Obligations.TopBitFieldsAreInterchangeable := fun a b s =>
  ⟨exec_getf_eq_of_same_place rfl rfl a s, exec_getf_eq_of_same_place rfl rfl a s,
    exec_setf_eq_of_same_place rfl rfl a b s, exec_setf_eq_of_same_place rfl rfl a b s⟩

end Sys2Proof.Machine
end

section
/-! PROOFS. The wire byte operations PACK.BE and UNPACK.BE (43_bytes.md). -/

namespace Sys2Proof

/-- The high byte of a composed word is the first byte (R43). -/
theorem highByte_composeBytes (d0 d1 : Byte) : highByte (composeBytes d0 d1) = d0 :=
  BitVec.extractLsb'_append_eq_left

/-- The low byte of a composed word is the second byte (R43). -/
theorem lowByte_composeBytes (d0 d1 : Byte) : lowByte (composeBytes d0 d1) = d1 :=
  BitVec.extractLsb'_append_eq_right

/-- The low half of a zero-extended word is the word (R26). -/
theorem setWidth_setWidth_word (w : Word) : (w.setWidth 32).setWidth 16 = w := by
  rw [BitVec.setWidth_setWidth_of_le w (by decide), BitVec.setWidth_eq]

end Sys2Proof

namespace Sys2Proof.Machine

/-- Settles O23: `y` is the zero-extended composed word, so it has that word's number; the corner cases and the example
are instances that evaluate. -/
theorem packBeComposesHighByteFirst : Obligations.PackBeComposesHighByteFirst := by
  refine ⟨fun d0 d1 s => ⟨(composeBytes d0 d1).setWidth 32, exec_packBe d0 d1 s, ?_⟩,
    fun s => ⟨exec_packBe _ _ s, exec_packBe _ _ s, exec_packBe _ _ s⟩⟩
  rw [BitVec.toNat_setWidth_of_le (by decide), composeBytes_toNat]

/-- Settles O24: the two bytes are the word's quotient and remainder by 256. -/
theorem unpackBeSplitsHighByteFirst : Obligations.UnpackBeSplitsHighByteFirst := fun a s =>
  ⟨highByte a, lowByte a, exec_unpackBe a s, highByte_toNat a, lowByte_toNat a⟩

/-- Settles O25: splitting and composing undo each other, and `y` carries the composed word without loss. -/
theorem packBeAndUnpackBeAreInverse : Obligations.PackBeAndUnpackBeAreInverse := by
  refine ⟨fun w s => ⟨_, _, exec_unpackBe w s, exec_packBe _ _ _, ?_⟩, fun d0 d1 s => ?_⟩
  · exact congrArg (BitVec.setWidth 32) (composeBytes_highByte_lowByte w)
  · have word := setWidth_setWidth_word (composeBytes d0 d1)
    exact ⟨_, _, exec_packBe d0 d1 s, exec_unpackBe _ _, (congrArg highByte word).trans (highByte_composeBytes d0 d1),
      (congrArg lowByte word).trans (lowByte_composeBytes d0 d1)⟩

end Sys2Proof.Machine
end

section
/-! PROOFS. Illegal requests and the program fault (60_exceptions.md): which requests raise `ill`, that the next request
does not see it, and how the fault of a host's program follows from the requests served. -/

namespace Sys2Proof.Machine

/-! ### The illegal response -/

/-- The response to an operation raises `ill` unless the operation is well-formed (R200, R201). -/
theorem Answer.ill_eq {i : Instr} {rsp : Response} (kind : Answer i rsp) :
    rsp.ill = if i.wellFormed then 0 else 1 := by
  cases kind with
  | illegalOp hop => simp [Instr.wellFormed, hop]
  | illegalFsel hop hsel => simp [Instr.wellFormed, hsel]
  | value hwf hop x => simp [hwf]
  | word hwf hop w => simp [hwf]
  | bytes hwf hop q0 q1 => simp [hwf]

/-- Settles O31, by the kind of response. -/
theorem illIsRaisedExactlyByIllFormedOperations : Obligations.IllIsRaisedExactlyByIllFormedOperations := by
  intro i s
  obtain ⟨rsp, kind, h⟩ := exec_eq_answer i
  refine ⟨_, h s, ?_⟩
  simp [kind.ill_eq]

/-- The response to a request is one its operation may have (R20). -/
theorem answer_respond (r : Request) : Answer (decodeRequest r) (respond r) := by
  obtain ⟨rsp, kind, h⟩ := exec_eq_answer (decodeRequest r)
  have hr : respond r = rsp := by simp [respond, h]
  rwa [hr]

/-- The response to a request has `ill` = 1 exactly when the request is ill-formed (R201). -/
theorem respond_ill_eq_one_iff (r : Request) : (respond r).ill = 1 ↔ (decodeRequest r).wellFormed = false := by
  simp [(answer_respond r).ill_eq]

/-- An unassigned opcode answers the illegal response with cause ILLEGAL_OP and does nothing else (R201, R202). -/
theorem exec_of_opcodeAssigned_eq_false {i : Instr} (hi : i.opcodeAssigned = false) (s : State) :
    exec i s = .next { s with outs := .illegal .illegalOp } := by
  obtain ⟨rsp, kind, h⟩ := exec_eq_answer i
  cases kind with
  | illegalOp hop => exact h s
  | illegalFsel hop hsel => simp [hi] at hop
  | value hwf hop x => simp [wellFormed_iff, hi] at hwf
  | word hwf hop w => simp [wellFormed_iff, hi] at hwf
  | bytes hwf hop q0 q1 => simp [wellFormed_iff, hi] at hwf

/-- Settles O29: each of the eight fails the opcode check. -/
theorem unassignedOpcodesAnswerIllegalOp : Obligations.UnassignedOpcodesAnswerIllegalOp := by
  intro i hi
  have unassigned : ∀ i ∈ [Instr.illegalOp0x0, .illegalOp0x9, .illegalOp0xA, .illegalOp0xB, .illegalOp0xC,
      .illegalOp0xD, .illegalOp0xE, .illegalOp0xF], i.opcodeAssigned = false := by decide
  exact exec_of_opcodeAssigned_eq_false (unassigned i hi)

/-! ### The next request -/

/-- Settles O32: a step answers its request with the response the request has by itself. -/
theorem nextRequestIsServedAsIfNothingHappened : Obligations.NextRequestIsServedAsIfNothingHappened :=
  fun _ _ _ _ => ⟨_, _, _, step_eq_served rfl, step_eq_served rfl, step_eq_served rfl, rfl, rfl, rfl, rfl, rfl⟩

/-! ### The fault of a program -/

/-- A program is faulted when a collected response has `ill` = 1 (R207). -/
theorem programFaulted_iff (s : State) : s.programFaulted = true ↔ ∃ rsp ∈ s.served, rsp.ill = 1 := by
  simp [State.programFaulted]

/-- Serving requests faults the program exactly when it was faulted or one of them is ill-formed (R207). -/
theorem programFaulted_iff_of_served {reqs : List Request} {s t : State}
    (h : t.served = (reqs.map respond).reverse ++ s.served) :
    t.programFaulted = true ↔ s.programFaulted = true ∨ ∃ r ∈ reqs, (decodeRequest r).wellFormed = false := by
  have among : (∃ rsp ∈ t.served, rsp.ill = 1) ↔
      (∃ rsp ∈ s.served, rsp.ill = 1) ∨ ∃ r ∈ reqs, (respond r).ill = 1 := by
    simp [h, or_and_right, exists_or, or_comm]
  simpa only [programFaulted_iff, respond_ill_eq_one_iff] using among

/-- Settles O42: the responses collected are those of the issued requests, and an ill-formed one has `ill` = 1. -/
theorem programIsFaultedExactlyByIllFormedRequests : Obligations.ProgramIsFaultedExactlyByIllFormedRequests := by
  intro s
  obtain ⟨t, hrun, -, hserved, -⟩ := run_serves_pending (s := s) rfl
  exact ⟨t, hrun, programFaulted_iff_of_served hserved⟩

/-- Every step answers a next state and keeps the responses collected before it. -/
theorem step_keeps_served (s : State) : ∃ t, step s = .next t ∧ s.served <:+ t.served := by
  cases hp : s.pending with
  | nil => exact ⟨_, (step_idle hp).trans (exec_decodeRequest s.ports s), List.suffix_rfl⟩
  | cons r rest => exact ⟨_, step_eq_served hp, List.suffix_cons _ _⟩

/-- Any number of steps answers a next state and keeps the responses collected before. -/
theorem run_keeps_served (k : Nat) (s : State) : ∃ t : State, core.run k s = .next t ∧ s.served <:+ t.served := by
  induction k generalizing s with
  | zero => exact ⟨s, rfl, List.suffix_rfl⟩
  | succ k ih =>
    obtain ⟨u, hstep, hu⟩ := step_keeps_served s
    obtain ⟨t, hrun, ht⟩ := ih u
    exact ⟨t, (run_succ core k s u hstep).trans hrun, hu.trans ht⟩

/-- A program faulted by some response is faulted as long as that response is kept (R207). -/
theorem programFaulted_of_served_suffix {s t : State} (h : s.served <:+ t.served) (hs : s.programFaulted = true) :
    t.programFaulted = true := by
  obtain ⟨rsp, hmem, hill⟩ := (programFaulted_iff s).1 hs
  exact (programFaulted_iff t).2 ⟨rsp, h.subset hmem, hill⟩

/-- Settles O41: no step removes a collected response. -/
theorem programFaultIsNeverCleared : Obligations.ProgramFaultIsNeverCleared := by
  intro k s
  obtain ⟨t, hrun, hserved⟩ := run_keeps_served k s
  exact ⟨t, hrun, programFaulted_of_served_suffix hserved⟩

/-! ### The lines of a program -/

/-- A line that names no request cannot be run (log entry 17). -/
theorem runItem_of_request?_error {item : HostItem} {env : Env} {e : HostError} (h : item.request? env = .error e)
    (s : State) : runItem env item s = .error e := by
  simp [runItem, h]

/-- A line that names a request runs: the requests pending before it and its own are served, and the program is faulted
after it exactly when it was or one of these is ill-formed. -/
theorem runItem_of_request?_ok {item : HostItem} {env : Env} {r : Request} {result : Option (String × OutPort)}
    (h : item.request? env = .ok (r, result)) (s : State) :
    ∃ t, runItem env item s = .ok (bindResult env t.outs result, t) ∧ t.pending = [] ∧
      (t.programFaulted = true ↔
        s.programFaulted = true ∨ ∃ q ∈ s.pending ++ [r], (decodeRequest q).wellFormed = false) := by
  obtain ⟨t, hrun, hpending, hserved, -⟩ := run_serves_pending (State.issue_pending s r)
  rw [List.length_append, List.length_singleton] at hrun
  exact ⟨t, by simp [runItem, h, hrun], hpending, programFaulted_iff_of_served hserved⟩

/-- The run of a faulted program ends faulted, whatever its further lines (R207). -/
theorem runProgram_of_faulted (items : List HostItem) (env : Env) {s : State} (hs : s.programFaulted = true) :
    ∃ t, runProgram items env s = .faulted t ∧ t.programFaulted = true := by
  induction items generalizing env s with
  | nil => exact ⟨s, verdict_faulted hs _, hs⟩
  | cons item items ih =>
    cases hreq : item.request? env with
    | error e =>
      exact ⟨s, (runProgram_error (runItem_of_request?_error hreq s) items).trans (verdict_faulted hs _), hs⟩
    | ok named =>
      obtain ⟨u, hitem, -, hfault⟩ := runItem_of_request?_ok hreq s
      rw [runProgram_ok hitem]
      exact ih _ (hfault.2 (.inl hs))

/-- A run that ends final, begun with nothing pending, ends in a final state. -/
theorem programFinal_of_runProgram_final {items : List HostItem} {env env' : Env} {s t : State}
    (hrun : runProgram items env s = .final env' t) (hs : s.pending = []) : t.programFinal = true := by
  induction items generalizing env s with
  | nil =>
    rw [runProgram_nil] at hrun
    obtain ⟨-, hv⟩ | ⟨hclean, hv⟩ := verdict_cases s (.final env s)
    · cases hv.symm.trans hrun
    · cases hv.symm.trans hrun
      simp [State.programFinal, State.safe, hs, hclean]
  | cons item items ih =>
    cases hreq : item.request? env with
    | error e =>
      rw [runProgram_error (runItem_of_request?_error hreq s)] at hrun
      obtain ⟨-, hv⟩ | ⟨-, hv⟩ := verdict_cases s (.broken e)
      · cases hv.symm.trans hrun
      · cases hv.symm.trans hrun
    | ok named =>
      obtain ⟨u, hitem, hpending, -⟩ := runItem_of_request?_ok hreq s
      rw [runProgram_ok hitem] at hrun
      exact ih hrun hpending

/-- A bare ill-formed request makes the run end faulted, whatever lines follow (R207). -/
theorem runProgram_request_illFormed {r : Request} (hr : (decodeRequest r).wellFormed = false)
    (items : List HostItem) (env : Env) (s : State) : ∃ t, runProgram (.request r :: items) env s = .faulted t := by
  obtain ⟨u, hitem, -, hfault⟩ := runItem_of_request?_ok (item := .request r) (env := env) rfl s
  obtain ⟨t, hrun, -⟩ := runProgram_of_faulted items env (hfault.2 (.inr ⟨r, by simp, hr⟩))
  exact ⟨t, (runProgram_ok hitem items).trans hrun⟩

/-- Well-formed requests, issued after well-formed ones to a program without fault, end final (R200). -/
theorem runProgram_wellFormed {rs : List Request} (env : Env) {s : State} (hs : s.programFaulted = false)
    (hpending : ∀ r ∈ s.pending, (decodeRequest r).wellFormed = true)
    (hrs : ∀ r ∈ rs, (decodeRequest r).wellFormed = true) :
    ∃ t, runProgram (rs.map .request) env s = .final env t := by
  induction rs generalizing s with
  | nil => exact ⟨s, verdict_clean hs _⟩
  | cons r rs ih =>
    obtain ⟨hr, hrest⟩ := List.forall_mem_cons.1 hrs
    obtain ⟨u, hitem, hnone, hfault⟩ := runItem_of_request?_ok (item := .request r) (env := env) rfl s
    have clean : u.programFaulted = false := by
      rw [← Bool.not_eq_true, hfault]
      rintro (h | ⟨q, hq, hbad⟩)
      · simp [hs] at h
      · have hgood : (decodeRequest q).wellFormed = true :=
          (List.mem_append.1 hq).elim (hpending q) (fun h => List.mem_singleton.1 h ▸ hr)
        simp [hgood] at hbad
    obtain ⟨t, hrun⟩ := ih clean (by simp [hnone]) hrest
    exact ⟨t, (runProgram_ok hitem _).trans hrun⟩

/-- Settles O51: no step clears the fault (O41), and the lines of a program are served one by one. -/
theorem faultedProgramsAreNeverFinal : Obligations.FaultedProgramsAreNeverFinal := by
  refine ⟨fun k s hs => ?_, fun items env _ => runProgram_of_faulted items env,
    fun _ _ _ _ _ => programFinal_of_runProgram_final,
    fun _ items env s hr => runProgram_request_illFormed hr items env s,
    fun _ env _ => runProgram_wellFormed env⟩
  obtain ⟨t, hrun, hfault⟩ := programFaultIsNeverCleared k s
  exact ⟨t, hrun, programFinal_of_faulted (hfault hs)⟩

end Sys2Proof.Machine
end

section
/-! PROOFS. The initialisation sequence (70_reset_and_hazards.md R245): each write sends the word its encode operation
answers. -/

namespace Sys2Proof.Machine

/-- The result of ENC.CAL is its operand, zero-extended (R125). -/
theorem respond_encCal_y (a : Word) : (respond (encodeRequest (.encCal a))).y = a.setWidth 32 := by
  rw [respond, decodeRequest_encodeRequest, exec_encCal]
  rfl

/-- A write whose operation answers the word `w` sends the bytes of `w` (R164, R245). -/
theorem bytes_write {r : RegName} {i : Instr} {w : Word} (answered : (respond (encodeRequest i)).y = w.setWidth 32)
    (cmd : RegCmd) : (InitAction.write r i).bytes cmd = [writeBytes cmd r w] := by
  rw [InitAction.bytes, answered, setWidth_setWidth_word]

/-- The sequence with the boot values written out (R8, R245). -/
theorem initSequence_eq : initSequence =
    [.write .calibration (.encCal 10), .write .configuration (.encConfig 7 2 2 0 0 0), .readAllSix] := rfl

/-- The writes of the sequence are those of the two boot words (R245). -/
theorem initWrites_eq (cmd : RegCmd) :
    initWrites cmd = [writeBytes cmd .calibration 0x000A, writeBytes cmd .configuration 0x0097] := by
  have config : (respond (encodeRequest (.encConfig 7 2 2 0 0 0))).y = (0x0097 : Word).setWidth 32 := by
    rw [respond_encConfig_y, packConfig_boot]
  rw [initWrites, initSequence_eq, List.flatMap_cons, List.flatMap_cons, bytes_write (respond_encCal_y 10),
    bytes_write config]
  rfl

/-- Settles O28: the boot words split into the bytes sent. -/
theorem initialisationWritesCalibrationFirst : Obligations.InitialisationWritesCalibrationFirst :=
  ⟨initSequence_eq, initWrites_eq⟩

end Sys2Proof.Machine
end
